-- ==== Sys2Proof/Word.lean ====
section
/-! DEFINITION. The widths of `00_scope.md` R6, R7 and `30_encoding.md` R71. A register is 64 bits wide (R20), a
slot of the instruction stream is 64 bits wide (R70), the fields `imm` and `offset` are 32 and 16 bits wide. -/

namespace Sys2Proof

/-- A register value, a data address, a slot of the program: 64 bits (R20, R70). -/
abbrev Word := BitVec 64

/-- A byte of the data space or of the packet (R40). -/
abbrev Byte := BitVec 8

/-- The 32-bit field `imm` (R71, R84). -/
abbrev Imm := BitVec 32

/-- The 16-bit field `offset` (R71, R85). -/
abbrev Off := BitVec 16

end Sys2Proof
end

