-- ==== Sys2Proof/Syntax.lean ====
section
/-! DEFINITION. The instructions, one constructor for each of the 144 rows of `spec/opcode_table.json`
(`30_encoding.md` R87, R97), and the registers they name (`10_state.md` R20, R22). -/

namespace Sys2Proof

/-- The eleven registers R0 to R10 (R20). Field values 11 to 15 name no register (R22). -/
inductive Reg where
  | r0 | r1 | r2 | r3 | r4 | r5 | r6 | r7 | r8 | r9 | r10
deriving DecidableEq, Repr

/-- The sizes of a memory access: `BPF_B`, `BPF_H`, `BPF_W`, `BPF_DW` (R49, R83). -/
inductive Size where
  | b | h | w | dw
deriving DecidableEq, Repr

/-- The number of bytes a size moves (R49). -/
def Size.bytes : Size → Nat
  | .b => 1
  | .h => 2
  | .w => 4
  | .dw => 8

/-- An instruction. Operands are named after the fields of R71: `dst` and `src` are the registers that `dst_reg` and
`src_reg` number, `imm` and `off` the fields `imm` and `offset` as they stand; `imm64` is the 64-bit immediate of the
wide instruction (R300). Each constructor's comment gives the rule of the instruction and its opcode byte. -/
inductive Instr where
  /-- R120 `add32_k`, opcode 0x04. -/
  | add32K (dst : Reg) (imm : Imm)
  /-- R121 `add32_x`, opcode 0x0c. -/
  | add32X (dst src : Reg)
  /-- R122 `add64_k`, opcode 0x07. -/
  | add64K (dst : Reg) (imm : Imm)
  /-- R123 `add64_x`, opcode 0x0f. -/
  | add64X (dst src : Reg)
  /-- R124 `sub32_k`, opcode 0x14. -/
  | sub32K (dst : Reg) (imm : Imm)
  /-- R125 `sub32_x`, opcode 0x1c. -/
  | sub32X (dst src : Reg)
  /-- R126 `sub64_k`, opcode 0x17. -/
  | sub64K (dst : Reg) (imm : Imm)
  /-- R127 `sub64_x`, opcode 0x1f. -/
  | sub64X (dst src : Reg)
  /-- R128 `mul32_k`, opcode 0x24. -/
  | mul32K (dst : Reg) (imm : Imm)
  /-- R129 `mul32_x`, opcode 0x2c. -/
  | mul32X (dst src : Reg)
  /-- R130 `mul64_k`, opcode 0x27. -/
  | mul64K (dst : Reg) (imm : Imm)
  /-- R131 `mul64_x`, opcode 0x2f. -/
  | mul64X (dst src : Reg)
  /-- R132 `div32_k`, opcode 0x34. -/
  | div32K (dst : Reg) (imm : Imm)
  /-- R133 `div32_x`, opcode 0x3c. -/
  | div32X (dst src : Reg)
  /-- R134 `div64_k`, opcode 0x37. -/
  | div64K (dst : Reg) (imm : Imm)
  /-- R135 `div64_x`, opcode 0x3f. -/
  | div64X (dst src : Reg)
  /-- R136 `or32_k`, opcode 0x44. -/
  | or32K (dst : Reg) (imm : Imm)
  /-- R137 `or32_x`, opcode 0x4c. -/
  | or32X (dst src : Reg)
  /-- R138 `or64_k`, opcode 0x47. -/
  | or64K (dst : Reg) (imm : Imm)
  /-- R139 `or64_x`, opcode 0x4f. -/
  | or64X (dst src : Reg)
  /-- R140 `and32_k`, opcode 0x54. -/
  | and32K (dst : Reg) (imm : Imm)
  /-- R141 `and32_x`, opcode 0x5c. -/
  | and32X (dst src : Reg)
  /-- R142 `and64_k`, opcode 0x57. -/
  | and64K (dst : Reg) (imm : Imm)
  /-- R143 `and64_x`, opcode 0x5f. -/
  | and64X (dst src : Reg)
  /-- R144 `lsh32_k`, opcode 0x64. -/
  | lsh32K (dst : Reg) (imm : Imm)
  /-- R145 `lsh32_x`, opcode 0x6c. -/
  | lsh32X (dst src : Reg)
  /-- R146 `lsh64_k`, opcode 0x67. -/
  | lsh64K (dst : Reg) (imm : Imm)
  /-- R147 `lsh64_x`, opcode 0x6f. -/
  | lsh64X (dst src : Reg)
  /-- R148 `rsh32_k`, opcode 0x74. -/
  | rsh32K (dst : Reg) (imm : Imm)
  /-- R149 `rsh32_x`, opcode 0x7c. -/
  | rsh32X (dst src : Reg)
  /-- R150 `rsh64_k`, opcode 0x77. -/
  | rsh64K (dst : Reg) (imm : Imm)
  /-- R151 `rsh64_x`, opcode 0x7f. -/
  | rsh64X (dst src : Reg)
  /-- R152 `neg32_k`, opcode 0x84. -/
  | neg32K (dst : Reg) (imm : Imm)
  /-- R153 `neg32_x`, opcode 0x8c. -/
  | neg32X (dst src : Reg)
  /-- R154 `neg64_k`, opcode 0x87. -/
  | neg64K (dst : Reg) (imm : Imm)
  /-- R155 `neg64_x`, opcode 0x8f. -/
  | neg64X (dst src : Reg)
  /-- R156 `mod32_k`, opcode 0x94. -/
  | mod32K (dst : Reg) (imm : Imm)
  /-- R157 `mod32_x`, opcode 0x9c. -/
  | mod32X (dst src : Reg)
  /-- R158 `mod64_k`, opcode 0x97. -/
  | mod64K (dst : Reg) (imm : Imm)
  /-- R159 `mod64_x`, opcode 0x9f. -/
  | mod64X (dst src : Reg)
  /-- R160 `xor32_k`, opcode 0xa4. -/
  | xor32K (dst : Reg) (imm : Imm)
  /-- R161 `xor32_x`, opcode 0xac. -/
  | xor32X (dst src : Reg)
  /-- R162 `xor64_k`, opcode 0xa7. -/
  | xor64K (dst : Reg) (imm : Imm)
  /-- R163 `xor64_x`, opcode 0xaf. -/
  | xor64X (dst src : Reg)
  /-- R164 `mov32_k`, opcode 0xb4. -/
  | mov32K (dst : Reg) (imm : Imm)
  /-- R165 `mov32_x`, opcode 0xbc. -/
  | mov32X (dst src : Reg)
  /-- R166 `mov64_k`, opcode 0xb7. -/
  | mov64K (dst : Reg) (imm : Imm)
  /-- R167 `mov64_x`, opcode 0xbf. -/
  | mov64X (dst src : Reg)
  /-- R168 `arsh32_k`, opcode 0xc4. -/
  | arsh32K (dst : Reg) (imm : Imm)
  /-- R169 `arsh32_x`, opcode 0xcc. -/
  | arsh32X (dst src : Reg)
  /-- R170 `arsh64_k`, opcode 0xc7. -/
  | arsh64K (dst : Reg) (imm : Imm)
  /-- R171 `arsh64_x`, opcode 0xcf. -/
  | arsh64X (dst src : Reg)
  /-- R183 `le16`, opcode 0xd4, imm = 0x10. -/
  | le16 (dst : Reg)
  /-- R184 `le32`, opcode 0xd4, imm = 0x20. -/
  | le32 (dst : Reg)
  /-- R185 `le64`, opcode 0xd4, imm = 0x40. -/
  | le64 (dst : Reg)
  /-- R186 `be16`, opcode 0xdc, imm = 0x10. -/
  | be16 (dst : Reg)
  /-- R187 `be32`, opcode 0xdc, imm = 0x20. -/
  | be32 (dst : Reg)
  /-- R188 `be64`, opcode 0xdc, imm = 0x40. -/
  | be64 (dst : Reg)
  /-- R199 `ja`, opcode 0x05. -/
  | ja (off : Off)
  /-- R200 `jeq_k`, opcode 0x15. -/
  | jeqK (dst : Reg) (imm : Imm) (off : Off)
  /-- R201 `jeq_x`, opcode 0x1d. -/
  | jeqX (dst src : Reg) (off : Off)
  /-- R202 `jeq32_k`, opcode 0x16. -/
  | jeq32K (dst : Reg) (imm : Imm) (off : Off)
  /-- R203 `jeq32_x`, opcode 0x1e. -/
  | jeq32X (dst src : Reg) (off : Off)
  /-- R204 `jgt_k`, opcode 0x25. -/
  | jgtK (dst : Reg) (imm : Imm) (off : Off)
  /-- R205 `jgt_x`, opcode 0x2d. -/
  | jgtX (dst src : Reg) (off : Off)
  /-- R206 `jgt32_k`, opcode 0x26. -/
  | jgt32K (dst : Reg) (imm : Imm) (off : Off)
  /-- R207 `jgt32_x`, opcode 0x2e. -/
  | jgt32X (dst src : Reg) (off : Off)
  /-- R208 `jge_k`, opcode 0x35. -/
  | jgeK (dst : Reg) (imm : Imm) (off : Off)
  /-- R209 `jge_x`, opcode 0x3d. -/
  | jgeX (dst src : Reg) (off : Off)
  /-- R210 `jge32_k`, opcode 0x36. -/
  | jge32K (dst : Reg) (imm : Imm) (off : Off)
  /-- R211 `jge32_x`, opcode 0x3e. -/
  | jge32X (dst src : Reg) (off : Off)
  /-- R212 `jset_k`, opcode 0x45. -/
  | jsetK (dst : Reg) (imm : Imm) (off : Off)
  /-- R213 `jset_x`, opcode 0x4d. -/
  | jsetX (dst src : Reg) (off : Off)
  /-- R214 `jset32_k`, opcode 0x46. -/
  | jset32K (dst : Reg) (imm : Imm) (off : Off)
  /-- R215 `jset32_x`, opcode 0x4e. -/
  | jset32X (dst src : Reg) (off : Off)
  /-- R216 `jne_k`, opcode 0x55. -/
  | jneK (dst : Reg) (imm : Imm) (off : Off)
  /-- R217 `jne_x`, opcode 0x5d. -/
  | jneX (dst src : Reg) (off : Off)
  /-- R218 `jne32_k`, opcode 0x56. -/
  | jne32K (dst : Reg) (imm : Imm) (off : Off)
  /-- R219 `jne32_x`, opcode 0x5e. -/
  | jne32X (dst src : Reg) (off : Off)
  /-- R220 `jsgt_k`, opcode 0x65. -/
  | jsgtK (dst : Reg) (imm : Imm) (off : Off)
  /-- R221 `jsgt_x`, opcode 0x6d. -/
  | jsgtX (dst src : Reg) (off : Off)
  /-- R222 `jsgt32_k`, opcode 0x66. -/
  | jsgt32K (dst : Reg) (imm : Imm) (off : Off)
  /-- R223 `jsgt32_x`, opcode 0x6e. -/
  | jsgt32X (dst src : Reg) (off : Off)
  /-- R224 `jsge_k`, opcode 0x75. -/
  | jsgeK (dst : Reg) (imm : Imm) (off : Off)
  /-- R225 `jsge_x`, opcode 0x7d. -/
  | jsgeX (dst src : Reg) (off : Off)
  /-- R226 `jsge32_k`, opcode 0x76. -/
  | jsge32K (dst : Reg) (imm : Imm) (off : Off)
  /-- R227 `jsge32_x`, opcode 0x7e. -/
  | jsge32X (dst src : Reg) (off : Off)
  /-- R228 `jlt_k`, opcode 0xa5. -/
  | jltK (dst : Reg) (imm : Imm) (off : Off)
  /-- R229 `jlt_x`, opcode 0xad. -/
  | jltX (dst src : Reg) (off : Off)
  /-- R230 `jlt32_k`, opcode 0xa6. -/
  | jlt32K (dst : Reg) (imm : Imm) (off : Off)
  /-- R231 `jlt32_x`, opcode 0xae. -/
  | jlt32X (dst src : Reg) (off : Off)
  /-- R232 `jle_k`, opcode 0xb5. -/
  | jleK (dst : Reg) (imm : Imm) (off : Off)
  /-- R233 `jle_x`, opcode 0xbd. -/
  | jleX (dst src : Reg) (off : Off)
  /-- R234 `jle32_k`, opcode 0xb6. -/
  | jle32K (dst : Reg) (imm : Imm) (off : Off)
  /-- R235 `jle32_x`, opcode 0xbe. -/
  | jle32X (dst src : Reg) (off : Off)
  /-- R236 `jslt_k`, opcode 0xc5. -/
  | jsltK (dst : Reg) (imm : Imm) (off : Off)
  /-- R237 `jslt_x`, opcode 0xcd. -/
  | jsltX (dst src : Reg) (off : Off)
  /-- R238 `jslt32_k`, opcode 0xc6. -/
  | jslt32K (dst : Reg) (imm : Imm) (off : Off)
  /-- R239 `jslt32_x`, opcode 0xce. -/
  | jslt32X (dst src : Reg) (off : Off)
  /-- R240 `jsle_k`, opcode 0xd5. -/
  | jsleK (dst : Reg) (imm : Imm) (off : Off)
  /-- R241 `jsle_x`, opcode 0xdd. -/
  | jsleX (dst src : Reg) (off : Off)
  /-- R242 `jsle32_k`, opcode 0xd6. -/
  | jsle32K (dst : Reg) (imm : Imm) (off : Off)
  /-- R243 `jsle32_x`, opcode 0xde. -/
  | jsle32X (dst src : Reg) (off : Off)
  /-- R244 `call`, opcode 0x85. -/
  | call (imm : Imm)
  /-- R245 `exit`, opcode 0x95. -/
  | exit
  /-- R254 `ldxw`, opcode 0x61. -/
  | ldxw (dst src : Reg) (off : Off)
  /-- R255 `ldxh`, opcode 0x69. -/
  | ldxh (dst src : Reg) (off : Off)
  /-- R256 `ldxb`, opcode 0x71. -/
  | ldxb (dst src : Reg) (off : Off)
  /-- R257 `ldxdw`, opcode 0x79. -/
  | ldxdw (dst src : Reg) (off : Off)
  /-- R258 `stw`, opcode 0x62. -/
  | stw (dst : Reg) (off : Off) (imm : Imm)
  /-- R259 `sth`, opcode 0x6a. -/
  | sth (dst : Reg) (off : Off) (imm : Imm)
  /-- R260 `stb`, opcode 0x72. -/
  | stb (dst : Reg) (off : Off) (imm : Imm)
  /-- R261 `stdw`, opcode 0x7a. -/
  | stdw (dst : Reg) (off : Off) (imm : Imm)
  /-- R262 `stxw`, opcode 0x63. -/
  | stxw (dst src : Reg) (off : Off)
  /-- R263 `stxh`, opcode 0x6b. -/
  | stxh (dst src : Reg) (off : Off)
  /-- R264 `stxb`, opcode 0x73. -/
  | stxb (dst src : Reg) (off : Off)
  /-- R265 `stxdw`, opcode 0x7b. -/
  | stxdw (dst src : Reg) (off : Off)
  /-- R277 `atomic_add32`, opcode 0xc3, imm = 0x00. -/
  | atomicAdd32 (dst src : Reg) (off : Off)
  /-- R278 `atomic_fetch_add32`, opcode 0xc3, imm = 0x01. -/
  | atomicFetchAdd32 (dst src : Reg) (off : Off)
  /-- R279 `atomic_or32`, opcode 0xc3, imm = 0x40. -/
  | atomicOr32 (dst src : Reg) (off : Off)
  /-- R280 `atomic_fetch_or32`, opcode 0xc3, imm = 0x41. -/
  | atomicFetchOr32 (dst src : Reg) (off : Off)
  /-- R281 `atomic_and32`, opcode 0xc3, imm = 0x50. -/
  | atomicAnd32 (dst src : Reg) (off : Off)
  /-- R282 `atomic_fetch_and32`, opcode 0xc3, imm = 0x51. -/
  | atomicFetchAnd32 (dst src : Reg) (off : Off)
  /-- R283 `atomic_xor32`, opcode 0xc3, imm = 0xa0. -/
  | atomicXor32 (dst src : Reg) (off : Off)
  /-- R284 `atomic_fetch_xor32`, opcode 0xc3, imm = 0xa1. -/
  | atomicFetchXor32 (dst src : Reg) (off : Off)
  /-- R285 `atomic_xchg32`, opcode 0xc3, imm = 0xe1. -/
  | atomicXchg32 (dst src : Reg) (off : Off)
  /-- R286 `atomic_cmpxchg32`, opcode 0xc3, imm = 0xf1. -/
  | atomicCmpxchg32 (dst src : Reg) (off : Off)
  /-- R287 `atomic_add64`, opcode 0xdb, imm = 0x00. -/
  | atomicAdd64 (dst src : Reg) (off : Off)
  /-- R288 `atomic_fetch_add64`, opcode 0xdb, imm = 0x01. -/
  | atomicFetchAdd64 (dst src : Reg) (off : Off)
  /-- R289 `atomic_or64`, opcode 0xdb, imm = 0x40. -/
  | atomicOr64 (dst src : Reg) (off : Off)
  /-- R290 `atomic_fetch_or64`, opcode 0xdb, imm = 0x41. -/
  | atomicFetchOr64 (dst src : Reg) (off : Off)
  /-- R291 `atomic_and64`, opcode 0xdb, imm = 0x50. -/
  | atomicAnd64 (dst src : Reg) (off : Off)
  /-- R292 `atomic_fetch_and64`, opcode 0xdb, imm = 0x51. -/
  | atomicFetchAnd64 (dst src : Reg) (off : Off)
  /-- R293 `atomic_xor64`, opcode 0xdb, imm = 0xa0. -/
  | atomicXor64 (dst src : Reg) (off : Off)
  /-- R294 `atomic_fetch_xor64`, opcode 0xdb, imm = 0xa1. -/
  | atomicFetchXor64 (dst src : Reg) (off : Off)
  /-- R295 `atomic_xchg64`, opcode 0xdb, imm = 0xe1. -/
  | atomicXchg64 (dst src : Reg) (off : Off)
  /-- R296 `atomic_cmpxchg64`, opcode 0xdb, imm = 0xf1. -/
  | atomicCmpxchg64 (dst src : Reg) (off : Off)
  /-- R301 `lddw`, opcode 0x18. -/
  | lddw (dst : Reg) (imm64 : Word)
  /-- R312 `ldabsw`, opcode 0x20. -/
  | ldabsw (imm : Imm)
  /-- R313 `ldabsh`, opcode 0x28. -/
  | ldabsh (imm : Imm)
  /-- R314 `ldabsb`, opcode 0x30. -/
  | ldabsb (imm : Imm)
  /-- R315 `ldindw`, opcode 0x40. -/
  | ldindw (src : Reg) (imm : Imm)
  /-- R316 `ldindh`, opcode 0x48. -/
  | ldindh (src : Reg) (imm : Imm)
  /-- R317 `ldindb`, opcode 0x50. -/
  | ldindb (src : Reg) (imm : Imm)
deriving DecidableEq, Repr

/-- The reasons of `IllegalInstruction`, in the order of the table of R91, which is the order in which they are
reported (R323). -/
inductive IllFormed where
  | reservedOpcode | unusedFieldNotZero | badRegister | writeToR10 | badEndWidth | badAtomicOp | truncatedWide
  | badWideSecondSlot | versionNotAdmitted | negForm
deriving DecidableEq, Repr

end Sys2Proof
end

