-- ==== Sys2Proof/Config.lean ====
section
/-! DEFINITION. What an implementation or a host fixes for a run: the parameters of `00_scope.md` R6 as plain data, and
the free values, opaque constants that nothing can evaluate. -/

namespace Sys2Proof

/-- `HOST_ENDIAN`, the host byte order (R45). OPEN in the spec. -/
inductive Endian where
  | little | big
deriving DecidableEq, Repr

/-- `NEG_SEMANTICS`, what `BPF_NEG` computes (R117). OPEN in the spec. -/
inductive NegSemantics where
  | sourceLiteral | twosComplement
deriving DecidableEq, Repr

/-- `LDDW_LAYOUT`, how the 64-bit immediate is assembled (R300). OPEN in the spec. -/
inductive LddwLayout where
  | sourceLiteral | splitHalves
deriving DecidableEq, Repr

/-- `DIV_BY_ZERO` (R115); the spec takes `fault`. -/
inductive DivByZero where
  | fault | zeroAndKeep
deriving DecidableEq, Repr

/-- `SHIFT_OVERFLOW` (R116); the spec takes `fault`. -/
inductive ShiftOverflow where
  | fault | mask
deriving DecidableEq, Repr

/-- `MISALIGNED`, for plain accesses (R48); the spec takes `fault`. -/
inductive MisalignedPolicy where
  | fault | permit
deriving DecidableEq, Repr

/-- `ISA_VERSION`, which atomic operations are admitted (R271); the spec takes `v3`. The order is the tags' own. -/
inductive IsaVersion where
  | v1 | v3
deriving DecidableEq, Repr

/-- The finite parameters of R6. Every value of each is modelled. -/
structure Params where
  hostEndian : Endian
  negSemantics : NegSemantics
  lddwLayout : LddwLayout
  divByZero : DivByZero
  shiftOverflow : ShiftOverflow
  misaligned : MisalignedPolicy
  isaVersion : IsaVersion
deriving DecidableEq, Repr

/-- A region of `REGIONS`: base, length in bytes, permissions, and whether agents outside the model access it
(R43, R52). -/
structure Region where
  base : Nat
  length : Nat
  readable : Bool
  writable : Bool
  shared : Bool
deriving DecidableEq, Repr

/-- `PACKET`: the register value that designates the packet, and its bytes (R305). -/
structure Packet where
  designator : Word
  data : List Byte
deriving DecidableEq, Repr

/-- The operators of `HelperExpr`, each on 64 bits; `eq` gives 1 or 0. -/
inductive HelperOp where
  | add | sub | and | or | xor | eq
deriving DecidableEq, Repr

/-- A value a called function computes, as plain data: a constant, the value of that index among those the function has
read so far (its arguments, then what it read later), or an operator applied to two values. The language is the
model's own, so that `HELPERS` can stand in a state that holds no function (log entry 6). -/
inductive HelperExpr where
  | const (v : Word)
  | value (i : Nat)
  | binary (op : HelperOp) (a b : HelperExpr)
deriving DecidableEq, Repr, Inhabited

/-- What a called function does after it has read the arguments it always reads (R244): it returns a value in R0, fails
for a reason of its own, reads further argument registers that it chooses, loads or stores through the machine's own
`MemRead` and `MemWrite` (R59), or goes on one way or another as a value is zero or not. What it reads, stores and
answers can so depend on every value it has read. -/
inductive HelperBody where
  /-- Return the value in R0. -/
  | ret (result : HelperExpr)
  /-- Fail with this information: `HelperFault` (R322). -/
  | fail (info : HelperExpr)
  /-- Read these argument registers, lowest number first (R323). -/
  | readArgs (regs : List Reg) (next : HelperBody)
  /-- Read memory. -/
  | load (addr : HelperExpr) (size : Size) (next : HelperBody)
  /-- Write memory. -/
  | store (addr : HelperExpr) (size : Size) (val : HelperExpr) (next : HelperBody)
  /-- Go on with `yes` where the condition is not zero, else with `no`. -/
  | branch (cond : HelperExpr) (yes no : HelperBody)
deriving DecidableEq, Repr, Inhabited

/-- How a function of `HELPERS` is given: by a body written out, or as a function outside the model, whose body for
the arguments and the memory it is called with is the free value `Config.externalHelper`. -/
inductive HelperKind where
  | script (body : HelperBody)
  | external
deriving DecidableEq, Repr

/-- A function of `HELPERS`: its number, the argument registers it reads whatever they and memory hold (those of R1 to
R5 in the list, R244), and what it does then, the reading of further argument registers included. -/
structure Helper where
  number : Imm
  reads : List Reg
  kind : HelperKind
deriving DecidableEq, Repr

/-- FREE VALUE (log entry 5). `ORACLE`: the byte that the read number `tick` from a shared region finds at an address.
The model says nothing of it (R52). -/
opaque Config.oracle (tick : Nat) (addr : Nat) : Byte

/-- FREE VALUE (log entry 6). The body that a called function outside the model shows for its number, the values of
the argument registers it reads, and the memory (address, byte) it is called with (R244). -/
opaque Config.externalHelper (number : Imm) (args : List Word) (mem : List (Nat × Byte)) : HelperBody

/-- FREE VALUE (log entry 12). `INSN_SERIALISATION` for a big-endian host: the slot that eight bytes of a program file
stand for, which the spec leaves OPEN (R72). No step of the machine uses it. -/
opaque Config.bigEndianSlot (bytes : List Byte) : Word

end Sys2Proof
end

