-- ==== Sys2Proof/Machine/Bytes.lean ====
section
/-! DEFINITION. Bytes and 64-bit values: splitting, joining, byte order (`20_memory.md` R41, R42, R45; `00_scope.md`
R9). -/

namespace Sys2Proof.Machine

/-- The value whose bytes are these, the least significant one first. -/
def joinLE : List Byte → Word
  | [] => 0
  | b :: bs => (joinLE bs <<< 8) ||| b.setWidth 64

/-- The `n` low bytes of a value, the least significant one first. -/
def splitLE : Nat → Word → List Byte
  | 0, _ => []
  | n + 1, v => v.setWidth 8 :: splitLE n (v >>> 8)

/-- The bytes of a value listed from the least significant, put in the order of rising addresses on a host of this
byte order (R42), and back (R41 step 5): its own inverse. -/
def hostOrder (e : Endian) (bs : List Byte) : List Byte :=
  match e with
  | .little => bs
  | .big => bs.reverse

/-- The value whose bytes are these, the most significant one first: network byte order (R311). -/
def joinBE (bs : List Byte) : Word := joinLE bs.reverse

/-- `zext_64(bswap_8n(v[8n-1:0]))` (R9, R181): the `n` low bytes in reverse order, the rest zero. -/
def bswap (n : Nat) (v : Word) : Word := joinLE (splitLE n v).reverse

/-- `zext_64(v[8n-1:0])` (R9): the `n` low bytes, the rest zero. -/
def lowBytes (n : Nat) (v : Word) : Word := joinLE (splitLE n v)

/-- `x[31:0]` (R27). -/
def low32 (v : Word) : BitVec 32 := v.setWidth 32

/-- `zext_64` of 32 bits (R112). -/
def zext32 (v : BitVec 32) : Word := v.setWidth 64

/-- `sext_64(imm)` (R84). -/
def sextImm (imm : Imm) : Word := imm.signExtend 64

/-- `sext_64(offset)` (R60, R85). -/
def sextOff (off : Off) : Word := off.signExtend 64

end Sys2Proof.Machine
end

