-- ==== Sys2Proof/Machine/Defaults.lean ====
section
/-! DEFINITION. The values the model takes for what the spec leaves to a parameter: those of `00_scope.md` R6 where R6
has a value taken, those of the head of `95_test_vectors.md` where R6 says OPEN (log entries 2, 3). -/

namespace Sys2Proof.Machine

/-- The parameters at reset. `DIV_BY_ZERO`, `SHIFT_OVERFLOW`, `MISALIGNED` and `ISA_VERSION` are the values R6 takes.
DESIGN CHOICE, unsafe (log entry 2): `HOST_ENDIAN`, `NEG_SEMANTICS` and `LDDW_LAYOUT` are OPEN. -/
def defaultParams : Params :=
  { hostEndian := .little
    negSemantics := .sourceLiteral
    lddwLayout := .sourceLiteral
    divByZero := .fault
    shiftOverflow := .fault
    misaligned := .fault
    isaVersion := .v3 }

/-- The stack region of a stack that starts at `base` and is `size` bytes long: readable, writable, not shared (R44). -/
def stackRegion (base size : Nat) : Region :=
  { base := base, length := size, readable := true, writable := true, shared := false }

/-- DESIGN CHOICE, unsafe (log entry 3): where the stack lies at reset. -/
def defaultStackBase : Nat := 0x1000

/-- DESIGN CHOICE, unsafe (log entry 3): `STACK_SIZE` at reset. -/
def defaultStackSize : Nat := 512

/-- `stack.base + STACK_SIZE`, the value of R10 at launch (R35, R44). DESIGN CHOICE, unsafe (log entry 18): where the
stack region ends at 2^64, which R43 admits, the sum is no 64-bit value and the spec does not say what R10 holds; the
model takes it modulo 2^64, which is 0. -/
def framePointer (base size : Nat) : Word := BitVec.ofNat 64 (base + size)

/-- DESIGN CHOICE, unsafe (log entry 1): what R0 to R9 hold at reset. -/
def defaultRegister : Word := 0

end Sys2Proof.Machine
end

