-- ==== Sys2Proof/Machine/RegUse.lean ====
section
/-! DEFINITION. The registers an instruction reads and writes (`10_state.md` R25), the version it is tagged with
(`44_atomic.md` R271), and the reason why a term of `Instr` is ill-formed, if it is (`30_encoding.md` R91). -/

namespace Sys2Proof

/-- The registers an instruction writes or leaves `novalue` (R25, right column). -/
def Instr.written : Instr → List Reg
  | .add32K dst _ | .add32X dst _ | .add64K dst _ | .add64X dst _ | .sub32K dst _ | .sub32X dst _
  | .sub64K dst _ | .sub64X dst _ | .mul32K dst _ | .mul32X dst _ | .mul64K dst _ | .mul64X dst _
  | .div32K dst _ | .div32X dst _ | .div64K dst _ | .div64X dst _ | .or32K dst _ | .or32X dst _ | .or64K dst _
  | .or64X dst _ | .and32K dst _ | .and32X dst _ | .and64K dst _ | .and64X dst _ | .lsh32K dst _
  | .lsh32X dst _ | .lsh64K dst _ | .lsh64X dst _ | .rsh32K dst _ | .rsh32X dst _ | .rsh64K dst _
  | .rsh64X dst _ | .neg32K dst _ | .neg32X dst _ | .neg64K dst _ | .neg64X dst _ | .mod32K dst _
  | .mod32X dst _ | .mod64K dst _ | .mod64X dst _ | .xor32K dst _ | .xor32X dst _ | .xor64K dst _
  | .xor64X dst _ | .mov32K dst _ | .mov32X dst _ | .mov64K dst _ | .mov64X dst _ | .arsh32K dst _
  | .arsh32X dst _ | .arsh64K dst _ | .arsh64X dst _ | .le16 dst | .le32 dst | .le64 dst | .be16 dst
  | .be32 dst | .be64 dst | .ldxw dst _ _ | .ldxh dst _ _ | .ldxb dst _ _ | .ldxdw dst _ _ | .lddw dst _ => [dst]
  | .ja _ | .jeqK _ _ _ | .jeqX _ _ _ | .jeq32K _ _ _ | .jeq32X _ _ _ | .jgtK _ _ _ | .jgtX _ _ _
  | .jgt32K _ _ _ | .jgt32X _ _ _ | .jgeK _ _ _ | .jgeX _ _ _ | .jge32K _ _ _ | .jge32X _ _ _ | .jsetK _ _ _
  | .jsetX _ _ _ | .jset32K _ _ _ | .jset32X _ _ _ | .jneK _ _ _ | .jneX _ _ _ | .jne32K _ _ _ | .jne32X _ _ _
  | .jsgtK _ _ _ | .jsgtX _ _ _ | .jsgt32K _ _ _ | .jsgt32X _ _ _ | .jsgeK _ _ _ | .jsgeX _ _ _
  | .jsge32K _ _ _ | .jsge32X _ _ _ | .jltK _ _ _ | .jltX _ _ _ | .jlt32K _ _ _ | .jlt32X _ _ _ | .jleK _ _ _
  | .jleX _ _ _ | .jle32K _ _ _ | .jle32X _ _ _ | .jsltK _ _ _ | .jsltX _ _ _ | .jslt32K _ _ _ | .jslt32X _ _ _
  | .jsleK _ _ _ | .jsleX _ _ _ | .jsle32K _ _ _ | .jsle32X _ _ _ | .exit | .stw _ _ _ | .sth _ _ _
  | .stb _ _ _ | .stdw _ _ _ | .stxw _ _ _ | .stxh _ _ _ | .stxb _ _ _ | .stxdw _ _ _ | .atomicAdd32 _ _ _
  | .atomicOr32 _ _ _ | .atomicAnd32 _ _ _ | .atomicXor32 _ _ _ | .atomicAdd64 _ _ _ | .atomicOr64 _ _ _
  | .atomicAnd64 _ _ _ | .atomicXor64 _ _ _ => []
  | .atomicFetchAdd32 _ src _ | .atomicFetchOr32 _ src _ | .atomicFetchAnd32 _ src _
  | .atomicFetchXor32 _ src _ | .atomicXchg32 _ src _ | .atomicFetchAdd64 _ src _ | .atomicFetchOr64 _ src _
  | .atomicFetchAnd64 _ src _ | .atomicFetchXor64 _ src _ | .atomicXchg64 _ src _ => [src]
  | .atomicCmpxchg32 _ _ _ | .atomicCmpxchg64 _ _ _ => [.r0]
  | .call _ | .ldabsw _ | .ldabsh _ | .ldabsb _ | .ldindw _ _ | .ldindh _ _ | .ldindb _ _ => [.r0, .r1, .r2, .r3, .r4, .r5]

/-- The registers an instruction reads, in the order in which it examines them (R25, middle column; R323 step 3). The
registers a `call` reads are the called function's (R244) and not the instruction's: none here. -/
def Instr.reads (p : Params) : Instr → List Reg
  | .add32X dst src | .add64X dst src | .sub32X dst src | .sub64X dst src | .mul32X dst src | .mul64X dst src
  | .div32X dst src | .div64X dst src | .or32X dst src | .or64X dst src | .and32X dst src | .and64X dst src
  | .lsh32X dst src | .lsh64X dst src | .rsh32X dst src | .rsh64X dst src | .mod32X dst src | .mod64X dst src
  | .xor32X dst src | .xor64X dst src | .arsh32X dst src | .arsh64X dst src => [dst, src]
  | .add32K dst _ | .add64K dst _ | .sub32K dst _ | .sub64K dst _ | .mul32K dst _ | .mul64K dst _
  | .div32K dst _ | .div64K dst _ | .or32K dst _ | .or64K dst _ | .and32K dst _ | .and64K dst _ | .lsh32K dst _
  | .lsh64K dst _ | .rsh32K dst _ | .rsh64K dst _ | .mod32K dst _ | .mod64K dst _ | .xor32K dst _
  | .xor64K dst _ | .arsh32K dst _ | .arsh64K dst _ => [dst]
  | .neg32K dst _ | .neg64K dst _ => if p.negSemantics = .sourceLiteral then [] else [dst]
  | .mov32X _ src | .mov64X _ src => [src]
  | .neg32X dst src | .neg64X dst src => if p.negSemantics = .sourceLiteral then [src] else [dst, src]
  | .mov32K _ _ | .mov64K _ _ | .ja _ | .call _ | .lddw _ _ => []
  | .le16 dst | .le32 dst | .le64 dst | .be16 dst | .be32 dst | .be64 dst | .jeqK dst _ _ | .jeq32K dst _ _
  | .jgtK dst _ _ | .jgt32K dst _ _ | .jgeK dst _ _ | .jge32K dst _ _ | .jsetK dst _ _ | .jset32K dst _ _
  | .jneK dst _ _ | .jne32K dst _ _ | .jsgtK dst _ _ | .jsgt32K dst _ _ | .jsgeK dst _ _ | .jsge32K dst _ _
  | .jltK dst _ _ | .jlt32K dst _ _ | .jleK dst _ _ | .jle32K dst _ _ | .jsltK dst _ _ | .jslt32K dst _ _
  | .jsleK dst _ _ | .jsle32K dst _ _ | .stw dst _ _ | .sth dst _ _ | .stb dst _ _ | .stdw dst _ _ => [dst]
  | .jeqX dst src _ | .jeq32X dst src _ | .jgtX dst src _ | .jgt32X dst src _ | .jgeX dst src _
  | .jge32X dst src _ | .jsetX dst src _ | .jset32X dst src _ | .jneX dst src _ | .jne32X dst src _
  | .jsgtX dst src _ | .jsgt32X dst src _ | .jsgeX dst src _ | .jsge32X dst src _ | .jltX dst src _
  | .jlt32X dst src _ | .jleX dst src _ | .jle32X dst src _ | .jsltX dst src _ | .jslt32X dst src _
  | .jsleX dst src _ | .jsle32X dst src _ | .stxw dst src _ | .stxh dst src _ | .stxb dst src _
  | .stxdw dst src _ | .atomicAdd32 dst src _ | .atomicFetchAdd32 dst src _ | .atomicOr32 dst src _
  | .atomicFetchOr32 dst src _ | .atomicAnd32 dst src _ | .atomicFetchAnd32 dst src _ | .atomicXor32 dst src _
  | .atomicFetchXor32 dst src _ | .atomicXchg32 dst src _ | .atomicAdd64 dst src _
  | .atomicFetchAdd64 dst src _ | .atomicOr64 dst src _ | .atomicFetchOr64 dst src _ | .atomicAnd64 dst src _
  | .atomicFetchAnd64 dst src _ | .atomicXor64 dst src _ | .atomicFetchXor64 dst src _
  | .atomicXchg64 dst src _ => [dst, src]
  | .atomicCmpxchg32 dst src _ | .atomicCmpxchg64 dst src _ => [dst, src, .r0]
  | .exit => [.r0]
  | .ldxw _ src _ | .ldxh _ src _ | .ldxb _ src _ | .ldxdw _ src _ => [src]
  | .ldabsw _ | .ldabsh _ | .ldabsb _ => [.r6]
  | .ldindw src _ | .ldindh src _ | .ldindb src _ => [.r6, src]

/-- The version tag of an atomic operation (R271, R272); no other instruction carries one. -/
def Instr.version : Instr → Option IsaVersion
  | .atomicFetchAdd32 _ _ _ | .atomicOr32 _ _ _ | .atomicFetchOr32 _ _ _ | .atomicAnd32 _ _ _
  | .atomicFetchAnd32 _ _ _ | .atomicXor32 _ _ _ | .atomicFetchXor32 _ _ _ | .atomicXchg32 _ _ _
  | .atomicCmpxchg32 _ _ _ | .atomicFetchAdd64 _ _ _ | .atomicOr64 _ _ _ | .atomicFetchOr64 _ _ _
  | .atomicAnd64 _ _ _ | .atomicFetchAnd64 _ _ _ | .atomicXor64 _ _ _ | .atomicFetchXor64 _ _ _
  | .atomicXchg64 _ _ _ | .atomicCmpxchg64 _ _ _ => some .v3
  | .atomicAdd32 _ _ _ | .atomicAdd64 _ _ _ => some .v1
  | .add32K _ _ | .add32X _ _ | .add64K _ _ | .add64X _ _ | .sub32K _ _ | .sub32X _ _ | .sub64K _ _
  | .sub64X _ _ | .mul32K _ _ | .mul32X _ _ | .mul64K _ _ | .mul64X _ _ | .div32K _ _ | .div32X _ _
  | .div64K _ _ | .div64X _ _ | .or32K _ _ | .or32X _ _ | .or64K _ _ | .or64X _ _ | .and32K _ _ | .and32X _ _
  | .and64K _ _ | .and64X _ _ | .lsh32K _ _ | .lsh32X _ _ | .lsh64K _ _ | .lsh64X _ _ | .rsh32K _ _
  | .rsh32X _ _ | .rsh64K _ _ | .rsh64X _ _ | .neg32K _ _ | .neg32X _ _ | .neg64K _ _ | .neg64X _ _
  | .mod32K _ _ | .mod32X _ _ | .mod64K _ _ | .mod64X _ _ | .xor32K _ _ | .xor32X _ _ | .xor64K _ _
  | .xor64X _ _ | .mov32K _ _ | .mov32X _ _ | .mov64K _ _ | .mov64X _ _ | .arsh32K _ _ | .arsh32X _ _
  | .arsh64K _ _ | .arsh64X _ _ | .le16 _ | .le32 _ | .le64 _ | .be16 _ | .be32 _ | .be64 _ | .ja _
  | .jeqK _ _ _ | .jeqX _ _ _ | .jeq32K _ _ _ | .jeq32X _ _ _ | .jgtK _ _ _ | .jgtX _ _ _ | .jgt32K _ _ _
  | .jgt32X _ _ _ | .jgeK _ _ _ | .jgeX _ _ _ | .jge32K _ _ _ | .jge32X _ _ _ | .jsetK _ _ _ | .jsetX _ _ _
  | .jset32K _ _ _ | .jset32X _ _ _ | .jneK _ _ _ | .jneX _ _ _ | .jne32K _ _ _ | .jne32X _ _ _ | .jsgtK _ _ _
  | .jsgtX _ _ _ | .jsgt32K _ _ _ | .jsgt32X _ _ _ | .jsgeK _ _ _ | .jsgeX _ _ _ | .jsge32K _ _ _
  | .jsge32X _ _ _ | .jltK _ _ _ | .jltX _ _ _ | .jlt32K _ _ _ | .jlt32X _ _ _ | .jleK _ _ _ | .jleX _ _ _
  | .jle32K _ _ _ | .jle32X _ _ _ | .jsltK _ _ _ | .jsltX _ _ _ | .jslt32K _ _ _ | .jslt32X _ _ _
  | .jsleK _ _ _ | .jsleX _ _ _ | .jsle32K _ _ _ | .jsle32X _ _ _ | .call _ | .exit | .ldxw _ _ _ | .ldxh _ _ _
  | .ldxb _ _ _ | .ldxdw _ _ _ | .stw _ _ _ | .sth _ _ _ | .stb _ _ _ | .stdw _ _ _ | .stxw _ _ _ | .stxh _ _ _
  | .stxb _ _ _ | .stxdw _ _ _ | .lddw _ _ | .ldabsw _ | .ldabsh _ | .ldabsb _ | .ldindw _ _ | .ldindh _ _
  | .ldindb _ _ => none

/-- The forms of `BPF_NEG` that do not exist under `NEG_SEMANTICS = twos_complement`: a register source, or an
immediate that is not zero (R117, R91). -/
def Instr.isExtraNegForm : Instr → Bool
  | .neg32X _ _ | .neg64X _ _ => true
  | .neg32K _ imm | .neg64K _ imm => imm != 0
  | .add32K _ _ | .add32X _ _ | .add64K _ _ | .add64X _ _ | .sub32K _ _ | .sub32X _ _ | .sub64K _ _
  | .sub64X _ _ | .mul32K _ _ | .mul32X _ _ | .mul64K _ _ | .mul64X _ _ | .div32K _ _ | .div32X _ _
  | .div64K _ _ | .div64X _ _ | .or32K _ _ | .or32X _ _ | .or64K _ _ | .or64X _ _ | .and32K _ _ | .and32X _ _
  | .and64K _ _ | .and64X _ _ | .lsh32K _ _ | .lsh32X _ _ | .lsh64K _ _ | .lsh64X _ _ | .rsh32K _ _
  | .rsh32X _ _ | .rsh64K _ _ | .rsh64X _ _ | .mod32K _ _ | .mod32X _ _ | .mod64K _ _ | .mod64X _ _
  | .xor32K _ _ | .xor32X _ _ | .xor64K _ _ | .xor64X _ _ | .mov32K _ _ | .mov32X _ _ | .mov64K _ _
  | .mov64X _ _ | .arsh32K _ _ | .arsh32X _ _ | .arsh64K _ _ | .arsh64X _ _ | .le16 _ | .le32 _ | .le64 _
  | .be16 _ | .be32 _ | .be64 _ | .ja _ | .jeqK _ _ _ | .jeqX _ _ _ | .jeq32K _ _ _ | .jeq32X _ _ _
  | .jgtK _ _ _ | .jgtX _ _ _ | .jgt32K _ _ _ | .jgt32X _ _ _ | .jgeK _ _ _ | .jgeX _ _ _ | .jge32K _ _ _
  | .jge32X _ _ _ | .jsetK _ _ _ | .jsetX _ _ _ | .jset32K _ _ _ | .jset32X _ _ _ | .jneK _ _ _ | .jneX _ _ _
  | .jne32K _ _ _ | .jne32X _ _ _ | .jsgtK _ _ _ | .jsgtX _ _ _ | .jsgt32K _ _ _ | .jsgt32X _ _ _
  | .jsgeK _ _ _ | .jsgeX _ _ _ | .jsge32K _ _ _ | .jsge32X _ _ _ | .jltK _ _ _ | .jltX _ _ _ | .jlt32K _ _ _
  | .jlt32X _ _ _ | .jleK _ _ _ | .jleX _ _ _ | .jle32K _ _ _ | .jle32X _ _ _ | .jsltK _ _ _ | .jsltX _ _ _
  | .jslt32K _ _ _ | .jslt32X _ _ _ | .jsleK _ _ _ | .jsleX _ _ _ | .jsle32K _ _ _ | .jsle32X _ _ _ | .call _
  | .exit | .ldxw _ _ _ | .ldxh _ _ _ | .ldxb _ _ _ | .ldxdw _ _ _ | .stw _ _ _ | .sth _ _ _ | .stb _ _ _
  | .stdw _ _ _ | .stxw _ _ _ | .stxh _ _ _ | .stxb _ _ _ | .stxdw _ _ _ | .atomicAdd32 _ _ _
  | .atomicFetchAdd32 _ _ _ | .atomicOr32 _ _ _ | .atomicFetchOr32 _ _ _ | .atomicAnd32 _ _ _
  | .atomicFetchAnd32 _ _ _ | .atomicXor32 _ _ _ | .atomicFetchXor32 _ _ _ | .atomicXchg32 _ _ _
  | .atomicCmpxchg32 _ _ _ | .atomicAdd64 _ _ _ | .atomicFetchAdd64 _ _ _ | .atomicOr64 _ _ _
  | .atomicFetchOr64 _ _ _ | .atomicAnd64 _ _ _ | .atomicFetchAnd64 _ _ _ | .atomicXor64 _ _ _
  | .atomicFetchXor64 _ _ _ | .atomicXchg64 _ _ _ | .atomicCmpxchg64 _ _ _ | .lddw _ _ | .ldabsw _ | .ldabsh _
  | .ldabsb _ | .ldindw _ _ | .ldindh _ _ | .ldindb _ _ => false

/-- Why an instruction is ill-formed, if it is (R91): the first of the reasons that a term of `Instr` can show. -/
def Instr.illFormed? (p : Params) (i : Instr) : Option IllFormed :=
  if .r10 ∈ i.written then some .writeToR10
  else if i.version = some .v3 ∧ p.isaVersion = .v1 then some .versionNotAdmitted
  else if p.negSemantics = .twosComplement ∧ i.isExtraNegForm = true then some .negForm
  else none

end Sys2Proof
end

