-- ==== Sys2Proof/WellFormed.lean ====
section
/-! DEFINITION. Well-formedness of an instruction (`30_encoding.md` R91). The checks that concern a slot's bits alone (a
reserved opcode, a non-zero unused field, a register number above 10, a bad width or operation selector, a wide
instruction cut short, a bad second slot) have no ill-formed term: `Instr` cannot express them, and `Sys2Proof.decode`
raises them. The three checks that a term can fail are those of `Instr.illFormed?`. -/

namespace Sys2Proof

/-- The instruction is one of the machine's under these parameters (R91). -/
abbrev Instr.WellFormed (p : Params) (i : Instr) : Prop := i.illFormed? p = none

end Sys2Proof
end

