-- ==== Sys2Proof/Decode.lean ====
section
/-! DEFINITION. The decoder, total on any slots, and the encoder (`30_encoding.md` R70 to R91, `45_imm64.md` R300). -/

namespace Sys2Proof

/-- `opcode`, `W[7:0]` (R71). -/
def opcodeField (w : Word) : BitVec 8 := w.extractLsb' 0 8

/-- `dst_reg`, `W[11:8]` (R71). -/
def dstField (w : Word) : BitVec 4 := w.extractLsb' 8 4

/-- `src_reg`, `W[15:12]` (R71). -/
def srcField (w : Word) : BitVec 4 := w.extractLsb' 12 4

/-- `offset`, `W[31:16]` (R71). -/
def offField (w : Word) : Off := w.extractLsb' 16 16

/-- `imm`, `W[63:32]` (R71). -/
def immField (w : Word) : Imm := w.extractLsb' 32 32

/-- The slot at the start of a wide instruction, by its `opcode` alone (R75). -/
def isWide (w : Word) : Bool := opcodeField w == 0x18#8

/-- A slot put together from its fields (R71). -/
def packSlot (opcode : BitVec 8) (dst src : BitVec 4) (off : Off) (imm : Imm) : Word :=
  imm ++ (off ++ (src ++ (dst ++ opcode)))

/-- The number of a register, as a register field holds it (R22). -/
def Reg.field : Reg → BitVec 4
  | .r0 => 0 | .r1 => 1 | .r2 => 2 | .r3 => 3 | .r4 => 4 | .r5 => 5
  | .r6 => 6 | .r7 => 7 | .r8 => 8 | .r9 => 9 | .r10 => 10

/-- The register a field names; the values 11 to 15 name none (R22). -/
def regOfField (v : BitVec 4) : Except IllFormed Reg :=
  match v.toNat with
  | 0 => .ok .r0 | 1 => .ok .r1 | 2 => .ok .r2 | 3 => .ok .r3 | 4 => .ok .r4 | 5 => .ok .r5
  | 6 => .ok .r6 | 7 => .ok .r7 | 8 => .ok .r8 | 9 => .ok .r9 | 10 => .ok .r10
  | _ => .error .badRegister

/-- The formats of R86, each with the instructions it makes from its used fields. A byte swap and an atomic operation
are selected by `imm` (R88). -/
inductive Form where
  | aluK (mk : Reg → Imm → Instr)
  | aluX (mk : Reg → Reg → Instr)
  | byteSwap (pick : Imm → Option (Reg → Instr))
  | ja (mk : Off → Instr)
  | jccK (mk : Reg → Imm → Off → Instr)
  | jccX (mk : Reg → Reg → Off → Instr)
  | call (mk : Imm → Instr)
  | exit (i : Instr)
  | ldx (mk : Reg → Reg → Off → Instr)
  | st (mk : Reg → Off → Imm → Instr)
  | stx (mk : Reg → Reg → Off → Instr)
  | atomic (pick : Imm → Option (Reg → Reg → Off → Instr))
  | lddw (mk : Reg → Word → Instr)
  | ldAbs (mk : Imm → Instr)
  | ldInd (mk : Reg → Imm → Instr)

/-- The widths of `BPF_TO_LE`: `imm` is 16, 32 or 64, all 32 bits compared (R88, R182). -/
def pickLe (imm : Imm) : Option (Reg → Instr) :=
  if imm = 0x10#32 then some .le16
  else if imm = 0x20#32 then some .le32
  else if imm = 0x40#32 then some .le64
  else none

/-- The widths of `BPF_TO_BE` (R88, R182). -/
def pickBe (imm : Imm) : Option (Reg → Instr) :=
  if imm = 0x10#32 then some .be16
  else if imm = 0x20#32 then some .be32
  else if imm = 0x40#32 then some .be64
  else none

/-- The 32-bit atomic operations by `imm`, all 32 bits compared (R88, R272). -/
def pickAtomic32 (imm : Imm) : Option (Reg → Reg → Off → Instr) :=
  if imm = 0x00#32 then some .atomicAdd32
  else if imm = 0x01#32 then some .atomicFetchAdd32
  else if imm = 0x40#32 then some .atomicOr32
  else if imm = 0x41#32 then some .atomicFetchOr32
  else if imm = 0x50#32 then some .atomicAnd32
  else if imm = 0x51#32 then some .atomicFetchAnd32
  else if imm = 0xa0#32 then some .atomicXor32
  else if imm = 0xa1#32 then some .atomicFetchXor32
  else if imm = 0xe1#32 then some .atomicXchg32
  else if imm = 0xf1#32 then some .atomicCmpxchg32
  else none

/-- The 64-bit atomic operations by `imm` (R88, R272). -/
def pickAtomic64 (imm : Imm) : Option (Reg → Reg → Off → Instr) :=
  if imm = 0x00#32 then some .atomicAdd64
  else if imm = 0x01#32 then some .atomicFetchAdd64
  else if imm = 0x40#32 then some .atomicOr64
  else if imm = 0x41#32 then some .atomicFetchOr64
  else if imm = 0x50#32 then some .atomicAnd64
  else if imm = 0x51#32 then some .atomicFetchAnd64
  else if imm = 0xa0#32 then some .atomicXor64
  else if imm = 0xa1#32 then some .atomicFetchXor64
  else if imm = 0xe1#32 then some .atomicXchg64
  else if imm = 0xf1#32 then some .atomicCmpxchg64
  else none

/-- The valid opcodes of class `BPF_LD` (R87, column 0). -/
def opcodesLd : List (BitVec 8 × Form) :=
  [(0x18, .lddw .lddw), (0x20, .ldAbs .ldabsw), (0x28, .ldAbs .ldabsh), (0x30, .ldAbs .ldabsb),
   (0x40, .ldInd .ldindw), (0x48, .ldInd .ldindh), (0x50, .ldInd .ldindb)]

/-- The valid opcodes of class `BPF_LDX` (R87, column 1). -/
def opcodesLdx : List (BitVec 8 × Form) :=
  [(0x61, .ldx .ldxw), (0x69, .ldx .ldxh), (0x71, .ldx .ldxb), (0x79, .ldx .ldxdw)]

/-- The valid opcodes of class `BPF_ST` (R87, column 2). -/
def opcodesSt : List (BitVec 8 × Form) :=
  [(0x62, .st .stw), (0x6a, .st .sth), (0x72, .st .stb), (0x7a, .st .stdw)]

/-- The valid opcodes of class `BPF_STX` (R87, column 3). -/
def opcodesStx : List (BitVec 8 × Form) :=
  [(0x63, .stx .stxw), (0x6b, .stx .stxh), (0x73, .stx .stxb), (0x7b, .stx .stxdw), (0xc3, .atomic pickAtomic32),
   (0xdb, .atomic pickAtomic64)]

/-- The valid opcodes of class `BPF_ALU` (R87, column 4). -/
def opcodesAlu : List (BitVec 8 × Form) :=
  [(0x04, .aluK .add32K), (0x0c, .aluX .add32X), (0x14, .aluK .sub32K), (0x1c, .aluX .sub32X),
   (0x24, .aluK .mul32K), (0x2c, .aluX .mul32X), (0x34, .aluK .div32K), (0x3c, .aluX .div32X),
   (0x44, .aluK .or32K), (0x4c, .aluX .or32X), (0x54, .aluK .and32K), (0x5c, .aluX .and32X),
   (0x64, .aluK .lsh32K), (0x6c, .aluX .lsh32X), (0x74, .aluK .rsh32K), (0x7c, .aluX .rsh32X),
   (0x84, .aluK .neg32K), (0x8c, .aluX .neg32X), (0x94, .aluK .mod32K), (0x9c, .aluX .mod32X),
   (0xa4, .aluK .xor32K), (0xac, .aluX .xor32X), (0xb4, .aluK .mov32K), (0xbc, .aluX .mov32X),
   (0xc4, .aluK .arsh32K), (0xcc, .aluX .arsh32X), (0xd4, .byteSwap pickLe), (0xdc, .byteSwap pickBe)]

/-- The valid opcodes of class `BPF_JMP` (R87, column 5). -/
def opcodesJmp : List (BitVec 8 × Form) :=
  [(0x05, .ja .ja), (0x15, .jccK .jeqK), (0x1d, .jccX .jeqX), (0x25, .jccK .jgtK), (0x2d, .jccX .jgtX),
   (0x35, .jccK .jgeK), (0x3d, .jccX .jgeX), (0x45, .jccK .jsetK), (0x4d, .jccX .jsetX), (0x55, .jccK .jneK),
   (0x5d, .jccX .jneX), (0x65, .jccK .jsgtK), (0x6d, .jccX .jsgtX), (0x75, .jccK .jsgeK), (0x7d, .jccX .jsgeX),
   (0x85, .call .call), (0x95, .exit .exit), (0xa5, .jccK .jltK), (0xad, .jccX .jltX), (0xb5, .jccK .jleK),
   (0xbd, .jccX .jleX), (0xc5, .jccK .jsltK), (0xcd, .jccX .jsltX), (0xd5, .jccK .jsleK), (0xdd, .jccX .jsleX)]

/-- The valid opcodes of class `BPF_JMP32` (R87, column 6). -/
def opcodesJmp32 : List (BitVec 8 × Form) :=
  [(0x16, .jccK .jeq32K), (0x1e, .jccX .jeq32X), (0x26, .jccK .jgt32K), (0x2e, .jccX .jgt32X),
   (0x36, .jccK .jge32K), (0x3e, .jccX .jge32X), (0x46, .jccK .jset32K), (0x4e, .jccX .jset32X),
   (0x56, .jccK .jne32K), (0x5e, .jccX .jne32X), (0x66, .jccK .jsgt32K), (0x6e, .jccX .jsgt32X),
   (0x76, .jccK .jsge32K), (0x7e, .jccX .jsge32X), (0xa6, .jccK .jlt32K), (0xae, .jccX .jlt32X),
   (0xb6, .jccK .jle32K), (0xbe, .jccX .jle32X), (0xc6, .jccK .jslt32K), (0xce, .jccX .jslt32X),
   (0xd6, .jccK .jsle32K), (0xde, .jccX .jsle32X)]

/-- The valid opcodes of class `BPF_ALU64` (R87, column 7). -/
def opcodesAlu64 : List (BitVec 8 × Form) :=
  [(0x07, .aluK .add64K), (0x0f, .aluX .add64X), (0x17, .aluK .sub64K), (0x1f, .aluX .sub64X),
   (0x27, .aluK .mul64K), (0x2f, .aluX .mul64X), (0x37, .aluK .div64K), (0x3f, .aluX .div64X),
   (0x47, .aluK .or64K), (0x4f, .aluX .or64X), (0x57, .aluK .and64K), (0x5f, .aluX .and64X),
   (0x67, .aluK .lsh64K), (0x6f, .aluX .lsh64X), (0x77, .aluK .rsh64K), (0x7f, .aluX .rsh64X),
   (0x87, .aluK .neg64K), (0x8f, .aluX .neg64X), (0x97, .aluK .mod64K), (0x9f, .aluX .mod64X),
   (0xa7, .aluK .xor64K), (0xaf, .aluX .xor64X), (0xb7, .aluK .mov64K), (0xbf, .aluX .mov64X),
   (0xc7, .aluK .arsh64K), (0xcf, .aluX .arsh64X)]

/-- The 122 valid opcode bytes with their formats (R87), class by class. -/
def opcodeTable : List (BitVec 8 × Form) :=
  opcodesLd ++ opcodesLdx ++ opcodesSt ++ opcodesStx ++ opcodesAlu ++ opcodesJmp ++ opcodesJmp32 ++ opcodesAlu64

/-- The row of an opcode in a list of rows. -/
def lookupOpcode : List (BitVec 8 × Form) → BitVec 8 → Option Form
  | [], _ => none
  | (k, f) :: rest, op => if op = k then some f else lookupOpcode rest op

/-- The format of a valid opcode; none for the 134 reserved ones (R93). -/
def formOf (op : BitVec 8) : Option Form := lookupOpcode opcodeTable op

/-- A check of R91: go on where the condition holds, else report the reason. -/
def require (c : Bool) (r : IllFormed) : Except IllFormed Unit :=
  match c with
  | true => .ok ()
  | false => .error r

/-- The checks of R91 that the instruction itself shows, then the instruction. -/
def wellFormedOr (p : Params) (i : Instr) : Except IllFormed Instr :=
  match i.illFormed? p with
  | some r => .error r
  | none => .ok i

/-- The instruction of a slot of this format, and of the slot after it for the wide instruction, with the checks of R91
in the order of its table (R323): must-be-zero fields (R86), register fields, the written register, the selector in
`imm`, the second slot, the version, the form of `BPF_NEG`. -/
def Form.decode (p : Params) (w : Word) (second : Option Word) : Form → Except IllFormed Instr
  | .aluK mk => do
    require (srcField w == 0 && offField w == 0) .unusedFieldNotZero
    let d ← regOfField (dstField w)
    wellFormedOr p (mk d (immField w))
  | .aluX mk => do
    require (offField w == 0 && immField w == 0) .unusedFieldNotZero
    let d ← regOfField (dstField w)
    let s ← regOfField (srcField w)
    wellFormedOr p (mk d s)
  | .byteSwap pick => do
    require (srcField w == 0 && offField w == 0) .unusedFieldNotZero
    let d ← regOfField (dstField w)
    require (d != .r10) .writeToR10
    match pick (immField w) with
    | some mk => wellFormedOr p (mk d)
    | none => .error .badEndWidth
  | .ja mk => do
    require (dstField w == 0 && srcField w == 0 && immField w == 0) .unusedFieldNotZero
    wellFormedOr p (mk (offField w))
  | .jccK mk => do
    require (srcField w == 0) .unusedFieldNotZero
    let d ← regOfField (dstField w)
    wellFormedOr p (mk d (immField w) (offField w))
  | .jccX mk => do
    require (immField w == 0) .unusedFieldNotZero
    let d ← regOfField (dstField w)
    let s ← regOfField (srcField w)
    wellFormedOr p (mk d s (offField w))
  | .call mk => do
    require (dstField w == 0 && srcField w == 0 && offField w == 0) .unusedFieldNotZero
    wellFormedOr p (mk (immField w))
  | .exit i => do
    require (dstField w == 0 && srcField w == 0 && offField w == 0 && immField w == 0) .unusedFieldNotZero
    wellFormedOr p i
  | .ldx mk => do
    require (immField w == 0) .unusedFieldNotZero
    let d ← regOfField (dstField w)
    let s ← regOfField (srcField w)
    wellFormedOr p (mk d s (offField w))
  | .st mk => do
    require (srcField w == 0) .unusedFieldNotZero
    let d ← regOfField (dstField w)
    wellFormedOr p (mk d (offField w) (immField w))
  | .stx mk => do
    require (immField w == 0) .unusedFieldNotZero
    let d ← regOfField (dstField w)
    let s ← regOfField (srcField w)
    wellFormedOr p (mk d s (offField w))
  | .atomic pick => do
    let d ← regOfField (dstField w)
    let s ← regOfField (srcField w)
    match pick (immField w) with
    | some mk => wellFormedOr p (mk d s (offField w))
    | none => .error .badAtomicOp
  | .lddw mk => do
    require (srcField w == 0 && offField w == 0 && (p.lddwLayout == .splitHalves || immField w == 0))
      .unusedFieldNotZero
    let d ← regOfField (dstField w)
    require (d != .r10) .writeToR10
    match second, p.lddwLayout with
    | none, _ => .error .truncatedWide
    | some v, .sourceLiteral => wellFormedOr p (mk d v)
    | some v, .splitHalves => do
      require (v.extractLsb' 0 32 == 0#32) .badWideSecondSlot
      wellFormedOr p (mk d (immField v ++ immField w))
  | .ldAbs mk => do
    require (dstField w == 0 && srcField w == 0 && offField w == 0) .unusedFieldNotZero
    wellFormedOr p (mk (immField w))
  | .ldInd mk => do
    require (dstField w == 0 && offField w == 0) .unusedFieldNotZero
    let s ← regOfField (srcField w)
    wellFormedOr p (mk s (immField w))

/-- The instruction whose first slot is `w` and whose next slot, if the program has one, is `second` (R90 steps 2 to 5);
the reason of `IllegalInstruction` where there is none (R91). -/
def decode (p : Params) (w : Word) (second : Option Word) : Except IllFormed Instr :=
  match formOf (opcodeField w) with
  | none => .error .reservedOpcode
  | some f => f.decode p w second

/-- The slots of an instruction: one, or two for `lddw` (R70, R71, R86, R300). -/
def encode (p : Params) : Instr → List Word
  | .add32K dst imm => [packSlot 0x04 dst.field 0 0 imm]
  | .add32X dst src => [packSlot 0x0c dst.field src.field 0 0]
  | .add64K dst imm => [packSlot 0x07 dst.field 0 0 imm]
  | .add64X dst src => [packSlot 0x0f dst.field src.field 0 0]
  | .sub32K dst imm => [packSlot 0x14 dst.field 0 0 imm]
  | .sub32X dst src => [packSlot 0x1c dst.field src.field 0 0]
  | .sub64K dst imm => [packSlot 0x17 dst.field 0 0 imm]
  | .sub64X dst src => [packSlot 0x1f dst.field src.field 0 0]
  | .mul32K dst imm => [packSlot 0x24 dst.field 0 0 imm]
  | .mul32X dst src => [packSlot 0x2c dst.field src.field 0 0]
  | .mul64K dst imm => [packSlot 0x27 dst.field 0 0 imm]
  | .mul64X dst src => [packSlot 0x2f dst.field src.field 0 0]
  | .div32K dst imm => [packSlot 0x34 dst.field 0 0 imm]
  | .div32X dst src => [packSlot 0x3c dst.field src.field 0 0]
  | .div64K dst imm => [packSlot 0x37 dst.field 0 0 imm]
  | .div64X dst src => [packSlot 0x3f dst.field src.field 0 0]
  | .or32K dst imm => [packSlot 0x44 dst.field 0 0 imm]
  | .or32X dst src => [packSlot 0x4c dst.field src.field 0 0]
  | .or64K dst imm => [packSlot 0x47 dst.field 0 0 imm]
  | .or64X dst src => [packSlot 0x4f dst.field src.field 0 0]
  | .and32K dst imm => [packSlot 0x54 dst.field 0 0 imm]
  | .and32X dst src => [packSlot 0x5c dst.field src.field 0 0]
  | .and64K dst imm => [packSlot 0x57 dst.field 0 0 imm]
  | .and64X dst src => [packSlot 0x5f dst.field src.field 0 0]
  | .lsh32K dst imm => [packSlot 0x64 dst.field 0 0 imm]
  | .lsh32X dst src => [packSlot 0x6c dst.field src.field 0 0]
  | .lsh64K dst imm => [packSlot 0x67 dst.field 0 0 imm]
  | .lsh64X dst src => [packSlot 0x6f dst.field src.field 0 0]
  | .rsh32K dst imm => [packSlot 0x74 dst.field 0 0 imm]
  | .rsh32X dst src => [packSlot 0x7c dst.field src.field 0 0]
  | .rsh64K dst imm => [packSlot 0x77 dst.field 0 0 imm]
  | .rsh64X dst src => [packSlot 0x7f dst.field src.field 0 0]
  | .neg32K dst imm => [packSlot 0x84 dst.field 0 0 imm]
  | .neg32X dst src => [packSlot 0x8c dst.field src.field 0 0]
  | .neg64K dst imm => [packSlot 0x87 dst.field 0 0 imm]
  | .neg64X dst src => [packSlot 0x8f dst.field src.field 0 0]
  | .mod32K dst imm => [packSlot 0x94 dst.field 0 0 imm]
  | .mod32X dst src => [packSlot 0x9c dst.field src.field 0 0]
  | .mod64K dst imm => [packSlot 0x97 dst.field 0 0 imm]
  | .mod64X dst src => [packSlot 0x9f dst.field src.field 0 0]
  | .xor32K dst imm => [packSlot 0xa4 dst.field 0 0 imm]
  | .xor32X dst src => [packSlot 0xac dst.field src.field 0 0]
  | .xor64K dst imm => [packSlot 0xa7 dst.field 0 0 imm]
  | .xor64X dst src => [packSlot 0xaf dst.field src.field 0 0]
  | .mov32K dst imm => [packSlot 0xb4 dst.field 0 0 imm]
  | .mov32X dst src => [packSlot 0xbc dst.field src.field 0 0]
  | .mov64K dst imm => [packSlot 0xb7 dst.field 0 0 imm]
  | .mov64X dst src => [packSlot 0xbf dst.field src.field 0 0]
  | .arsh32K dst imm => [packSlot 0xc4 dst.field 0 0 imm]
  | .arsh32X dst src => [packSlot 0xcc dst.field src.field 0 0]
  | .arsh64K dst imm => [packSlot 0xc7 dst.field 0 0 imm]
  | .arsh64X dst src => [packSlot 0xcf dst.field src.field 0 0]
  | .le16 dst => [packSlot 0xd4 dst.field 0 0 0x10]
  | .le32 dst => [packSlot 0xd4 dst.field 0 0 0x20]
  | .le64 dst => [packSlot 0xd4 dst.field 0 0 0x40]
  | .be16 dst => [packSlot 0xdc dst.field 0 0 0x10]
  | .be32 dst => [packSlot 0xdc dst.field 0 0 0x20]
  | .be64 dst => [packSlot 0xdc dst.field 0 0 0x40]
  | .ja off => [packSlot 0x05 0 0 off 0]
  | .jeqK dst imm off => [packSlot 0x15 dst.field 0 off imm]
  | .jeqX dst src off => [packSlot 0x1d dst.field src.field off 0]
  | .jeq32K dst imm off => [packSlot 0x16 dst.field 0 off imm]
  | .jeq32X dst src off => [packSlot 0x1e dst.field src.field off 0]
  | .jgtK dst imm off => [packSlot 0x25 dst.field 0 off imm]
  | .jgtX dst src off => [packSlot 0x2d dst.field src.field off 0]
  | .jgt32K dst imm off => [packSlot 0x26 dst.field 0 off imm]
  | .jgt32X dst src off => [packSlot 0x2e dst.field src.field off 0]
  | .jgeK dst imm off => [packSlot 0x35 dst.field 0 off imm]
  | .jgeX dst src off => [packSlot 0x3d dst.field src.field off 0]
  | .jge32K dst imm off => [packSlot 0x36 dst.field 0 off imm]
  | .jge32X dst src off => [packSlot 0x3e dst.field src.field off 0]
  | .jsetK dst imm off => [packSlot 0x45 dst.field 0 off imm]
  | .jsetX dst src off => [packSlot 0x4d dst.field src.field off 0]
  | .jset32K dst imm off => [packSlot 0x46 dst.field 0 off imm]
  | .jset32X dst src off => [packSlot 0x4e dst.field src.field off 0]
  | .jneK dst imm off => [packSlot 0x55 dst.field 0 off imm]
  | .jneX dst src off => [packSlot 0x5d dst.field src.field off 0]
  | .jne32K dst imm off => [packSlot 0x56 dst.field 0 off imm]
  | .jne32X dst src off => [packSlot 0x5e dst.field src.field off 0]
  | .jsgtK dst imm off => [packSlot 0x65 dst.field 0 off imm]
  | .jsgtX dst src off => [packSlot 0x6d dst.field src.field off 0]
  | .jsgt32K dst imm off => [packSlot 0x66 dst.field 0 off imm]
  | .jsgt32X dst src off => [packSlot 0x6e dst.field src.field off 0]
  | .jsgeK dst imm off => [packSlot 0x75 dst.field 0 off imm]
  | .jsgeX dst src off => [packSlot 0x7d dst.field src.field off 0]
  | .jsge32K dst imm off => [packSlot 0x76 dst.field 0 off imm]
  | .jsge32X dst src off => [packSlot 0x7e dst.field src.field off 0]
  | .jltK dst imm off => [packSlot 0xa5 dst.field 0 off imm]
  | .jltX dst src off => [packSlot 0xad dst.field src.field off 0]
  | .jlt32K dst imm off => [packSlot 0xa6 dst.field 0 off imm]
  | .jlt32X dst src off => [packSlot 0xae dst.field src.field off 0]
  | .jleK dst imm off => [packSlot 0xb5 dst.field 0 off imm]
  | .jleX dst src off => [packSlot 0xbd dst.field src.field off 0]
  | .jle32K dst imm off => [packSlot 0xb6 dst.field 0 off imm]
  | .jle32X dst src off => [packSlot 0xbe dst.field src.field off 0]
  | .jsltK dst imm off => [packSlot 0xc5 dst.field 0 off imm]
  | .jsltX dst src off => [packSlot 0xcd dst.field src.field off 0]
  | .jslt32K dst imm off => [packSlot 0xc6 dst.field 0 off imm]
  | .jslt32X dst src off => [packSlot 0xce dst.field src.field off 0]
  | .jsleK dst imm off => [packSlot 0xd5 dst.field 0 off imm]
  | .jsleX dst src off => [packSlot 0xdd dst.field src.field off 0]
  | .jsle32K dst imm off => [packSlot 0xd6 dst.field 0 off imm]
  | .jsle32X dst src off => [packSlot 0xde dst.field src.field off 0]
  | .call imm => [packSlot 0x85 0 0 0 imm]
  | .exit => [packSlot 0x95 0 0 0 0]
  | .ldxw dst src off => [packSlot 0x61 dst.field src.field off 0]
  | .ldxh dst src off => [packSlot 0x69 dst.field src.field off 0]
  | .ldxb dst src off => [packSlot 0x71 dst.field src.field off 0]
  | .ldxdw dst src off => [packSlot 0x79 dst.field src.field off 0]
  | .stw dst off imm => [packSlot 0x62 dst.field 0 off imm]
  | .sth dst off imm => [packSlot 0x6a dst.field 0 off imm]
  | .stb dst off imm => [packSlot 0x72 dst.field 0 off imm]
  | .stdw dst off imm => [packSlot 0x7a dst.field 0 off imm]
  | .stxw dst src off => [packSlot 0x63 dst.field src.field off 0]
  | .stxh dst src off => [packSlot 0x6b dst.field src.field off 0]
  | .stxb dst src off => [packSlot 0x73 dst.field src.field off 0]
  | .stxdw dst src off => [packSlot 0x7b dst.field src.field off 0]
  | .atomicAdd32 dst src off => [packSlot 0xc3 dst.field src.field off 0x00]
  | .atomicFetchAdd32 dst src off => [packSlot 0xc3 dst.field src.field off 0x01]
  | .atomicOr32 dst src off => [packSlot 0xc3 dst.field src.field off 0x40]
  | .atomicFetchOr32 dst src off => [packSlot 0xc3 dst.field src.field off 0x41]
  | .atomicAnd32 dst src off => [packSlot 0xc3 dst.field src.field off 0x50]
  | .atomicFetchAnd32 dst src off => [packSlot 0xc3 dst.field src.field off 0x51]
  | .atomicXor32 dst src off => [packSlot 0xc3 dst.field src.field off 0xa0]
  | .atomicFetchXor32 dst src off => [packSlot 0xc3 dst.field src.field off 0xa1]
  | .atomicXchg32 dst src off => [packSlot 0xc3 dst.field src.field off 0xe1]
  | .atomicCmpxchg32 dst src off => [packSlot 0xc3 dst.field src.field off 0xf1]
  | .atomicAdd64 dst src off => [packSlot 0xdb dst.field src.field off 0x00]
  | .atomicFetchAdd64 dst src off => [packSlot 0xdb dst.field src.field off 0x01]
  | .atomicOr64 dst src off => [packSlot 0xdb dst.field src.field off 0x40]
  | .atomicFetchOr64 dst src off => [packSlot 0xdb dst.field src.field off 0x41]
  | .atomicAnd64 dst src off => [packSlot 0xdb dst.field src.field off 0x50]
  | .atomicFetchAnd64 dst src off => [packSlot 0xdb dst.field src.field off 0x51]
  | .atomicXor64 dst src off => [packSlot 0xdb dst.field src.field off 0xa0]
  | .atomicFetchXor64 dst src off => [packSlot 0xdb dst.field src.field off 0xa1]
  | .atomicXchg64 dst src off => [packSlot 0xdb dst.field src.field off 0xe1]
  | .atomicCmpxchg64 dst src off => [packSlot 0xdb dst.field src.field off 0xf1]
  | .lddw dst imm64 =>
    match p.lddwLayout with
    | .sourceLiteral => [packSlot 0x18 dst.field 0 0 0, imm64]
    | .splitHalves => [packSlot 0x18 dst.field 0 0 (imm64.extractLsb' 0 32), packSlot 0 0 0 0 (imm64.extractLsb' 32 32)]
  | .ldabsw imm => [packSlot 0x20 0 0 0 imm]
  | .ldabsh imm => [packSlot 0x28 0 0 0 imm]
  | .ldabsb imm => [packSlot 0x30 0 0 0 imm]
  | .ldindw src imm => [packSlot 0x40 0 src.field 0 imm]
  | .ldindh src imm => [packSlot 0x48 0 src.field 0 imm]
  | .ldindb src imm => [packSlot 0x50 0 src.field 0 imm]

/-- The slot that eight bytes of a program file stand for: the least significant byte first for a little-endian host;
OPEN for a big-endian one (R72, log entry 12). The machine itself fetches whole slots (R47). -/
def slotOfBytes (e : Endian) (bytes : List Byte) : Word :=
  match e with
  | .little => Machine.joinLE bytes
  | .big => Config.bigEndianSlot bytes

/-- The slots of a program file; none where its length is not a multiple of eight bytes (R72). -/
def programOfBytes (e : Endian) : List Byte → Option (List Word)
  | [] => some []
  | b0 :: b1 :: b2 :: b3 :: b4 :: b5 :: b6 :: b7 :: rest =>
    (programOfBytes e rest).map (slotOfBytes e [b0, b1, b2, b3, b4, b5, b6, b7] :: ·)
  | _ => none

/-- The eight bytes of a slot for a little-endian host (R72). -/
def bytesOfSlot (w : Word) : List Byte := Machine.splitLE 8 w

/-- Slot `k` of the number `w` that `spec/opcode_table.json` numbers from the first slot's bit 0, cut to `nbits`. -/
def tableSlot (nbits w k : Nat) : Word := BitVec.ofNat 64 (w % 2 ^ nbits / 2 ^ (64 * k))

/-- The instruction the decoder reads from the bits `w` of a row of `spec/opcode_table.json`, with the parameters at
reset (log entry 16); none where it refuses. -/
def decodeTableWord (nbits w : Nat) : Option Instr :=
  match decode Machine.defaultParams (tableSlot nbits w 0) (some (tableSlot nbits w 1)) with
  | .ok i => some i
  | .error _ => none

end Sys2Proof
end

