-- ==== Sys2Proof/Machine/State.lean ====
section
/-! DEFINITION. The state of the machine (`10_state.md` R34), its faults (`60_exceptions.md` R322), and the state right
after reset. -/

namespace Sys2Proof.Machine

/-- The direction of an access that `MemFault` records (R322). -/
inductive Access where
  | read | write
deriving DecidableEq, Repr

/-- The closed list of faults of R322. A fault ends the run: `outcome <- Fault(reason)` and nothing else changes (R321).
Raising one is SAFE: it admits no behaviour the source rules out, and the next step has no next state. -/
inductive Fault where
  /-- Raised by the fetch (R90 step 1) when `pc` names no instruction of the program; records `pc`. Safe. -/
  | pcOutOfRange (pc : Int)
  /-- Raised by the decoder and by the meaning of an ill-formed term (R90, R91) with the reason; records the slot at
  `pc`. Safe. -/
  | illegalInstruction (reason : IllFormed) (slot : Word)
  /-- Raised by every read of a register that holds `novalue` (R26); records the register. Safe. -/
  | uninitRegister (r : Reg)
  /-- Raised by `div` and `mod` with a zero divisor under `DIV_BY_ZERO = fault` (R115). Safe. -/
  | divideByZero
  /-- Raised by `lsh`, `rsh`, `arsh` with an amount not below the width under `SHIFT_OVERFLOW = fault` (R116). Safe. -/
  | shiftOutOfRange
  /-- Raised by `MemRead` and `MemWrite` for bytes that lie in no region with the permission (R41, R42). Safe. -/
  | memFault (addr : Word) (n : Nat) (dir : Access)
  /-- Raised by `MemRead` and `MemWrite` for an address that is not a multiple of the size (R48, R275). Safe. -/
  | misaligned (addr : Word) (n : Nat)
  /-- Raised by `MemRead` for a byte of a non-shared region that nothing has written (R58). Safe. -/
  | uninitMemory (addr : Word) (n : Nat)
  /-- Raised by `call` with a number that is no function's (R244). Safe. -/
  | unknownFunction (number : Imm)
  /-- Raised by a called function for a failure of its own (R244). DESIGN CHOICE (log entry 19): `info` is one 64-bit
  word, where the spec says only that it is whatever the function reports (R322). Safe. -/
  | helperFault (number : Imm) (info : Word)
  /-- Raised by a legacy packet load without a packet or without its designator in R6 (R306). Safe. -/
  | packetContext
deriving DecidableEq, Repr

/-- The reasons for which the model would give no meaning to an instruction. -/
inductive Refusal where
  /-- Raised by an arm of `exec` that has no meaning yet. Safe. No arm of this model raises it. -/
  | notModelled (mnemonic : String)
deriving DecidableEq, Repr

/-- The component `outcome` (R34, R320). -/
inductive RunOutcome where
  /-- From launch until the run ends. -/
  | running
  /-- `exit` returned the value (R245). -/
  | exit (v : Word)
  /-- A legacy packet load reached beyond the packet boundary (R334). -/
  | abort
  /-- A step raised a fault (R321). -/
  | fault (reason : Fault)
deriving DecidableEq, Repr

/-- The registers R0 to R10 (R20): eleven cells, each a 64-bit value or `novalue`, which is `none` (R26, R34). There are
no banks and no aliases (R27). -/
structure Regs where
  r0 : Option Word
  r1 : Option Word
  r2 : Option Word
  r3 : Option Word
  r4 : Option Word
  r5 : Option Word
  r6 : Option Word
  r7 : Option Word
  r8 : Option Word
  r9 : Option Word
  r10 : Option Word
deriving DecidableEq, Repr

/-- The content of the data space (R34, R40): the written bytes as (address, byte) cells with strictly rising addresses.
An address without a cell holds `nobyte` (R58, log entry 4). -/
abbrev Memory := List Host.Cell

/-- The whole state. The first four fields are the tuple of R34. The next seven are what R34 calls parameters of the
step (the program, `REGIONS`, `HELPERS`, `PACKET`, the parameters of R6, `ABORT_RESULT`), which no instruction
changes. The last is the model's own. -/
structure State where
  /-- `x[0..10]` (R34). -/
  regs : Regs
  /-- The index of the slot to execute, counted from 0; an integer without a width (R28). -/
  pc : Int
  /-- The content of the regions (R34). -/
  mem : Memory
  /-- How the run stands (R320). -/
  outcome : RunOutcome
  /-- The instruction space: the slots `P[0..N-1]` (R40, R56). -/
  program : List Word
  /-- The finite parameters of R6. -/
  params : Params
  /-- `REGIONS`, the stack among them (R43, R44). -/
  regions : List Region
  /-- `HELPERS` (R244). -/
  helpers : List Helper
  /-- `PACKET`, or absent (R305). -/
  packet : Option Packet
  /-- `ABORT_RESULT`, a value or none (R308, R355). -/
  abortResult : Option Word
  /-- The MODEL's own: how many reads from shared regions were made, to tell the answers of `Config.oracle` apart
  (R52, log entry 5). -/
  oracleTick : Nat
deriving DecidableEq, Repr

/-- The registers at reset. R10 is the frame pointer (R35, R44). DESIGN CHOICE, unsafe (log entry 1): R0 to R9 hold the
model's `defaultRegister`, where R35 gives `novalue` to R0 and R6 to R9 and leaves R1 to R5 OPEN;
`Sys2Proof.Machine.launch` gives the registers of R35. -/
def Regs.reset : Regs :=
  { r0 := some defaultRegister
    r1 := some defaultRegister
    r2 := some defaultRegister
    r3 := some defaultRegister
    r4 := some defaultRegister
    r5 := some defaultRegister
    r6 := some defaultRegister
    r7 := some defaultRegister
    r8 := some defaultRegister
    r9 := some defaultRegister
    r10 := some (framePointer defaultStackBase defaultStackSize) }

/-- The machine right after reset, which for this machine is a launch (R350): `pc` 0, every byte `nobyte`, `outcome`
`Running` (R35). DESIGN CHOICE, unsafe: the OPEN parameters (log entries 2, 3, 6, 7) and the model's counter (log
entry 5). No program is placed (log entry 8). -/
def State.reset : State :=
  { regs := Regs.reset
    pc := 0
    mem := []
    outcome := .running
    program := []
    params := defaultParams
    regions := [stackRegion defaultStackBase defaultStackSize]
    helpers := []
    packet := none
    abortResult := none
    oracleTick := 0 }

end Sys2Proof.Machine
end

