-- ==== Sys2Proof/Machine/Ops.lean ====
section
/-! DEFINITION. The named operations over registers, memory, the packet and the outcome. Every meaning is written over
these. An operation that can raise a fault answers in `Except Fault`; a fault discards whatever state the operation had
built, so that a faulting instruction has no effect (`60_exceptions.md` R321). -/

namespace Sys2Proof.Machine

/-! ### Registers -/

/-- The cell of a register (R34). -/
def Regs.get (g : Regs) : Reg → Option Word
  | .r0 => g.r0 | .r1 => g.r1 | .r2 => g.r2 | .r3 => g.r3 | .r4 => g.r4 | .r5 => g.r5
  | .r6 => g.r6 | .r7 => g.r7 | .r8 => g.r8 | .r9 => g.r9 | .r10 => g.r10

/-- `x[i] <- v`, or `x[i] <- novalue` for `none` (R9). R10 is read-only and keeps its value (R23): a well-formed
instruction never names it here (log entry 11). -/
def Regs.set (g : Regs) (r : Reg) (v : Option Word) : Regs :=
  match r with
  | .r0 => { g with r0 := v }
  | .r1 => { g with r1 := v }
  | .r2 => { g with r2 := v }
  | .r3 => { g with r3 := v }
  | .r4 => { g with r4 := v }
  | .r5 => { g with r5 := v }
  | .r6 => { g with r6 := v }
  | .r7 => { g with r7 := v }
  | .r8 => { g with r8 := v }
  | .r9 => { g with r9 := v }
  | .r10 => g

/-- `x[i]`: the value of a register; `UninitRegister(i)` where it holds `novalue` (R9, R26). -/
def readReg (s : State) (r : Reg) : Except Fault Word :=
  match s.regs.get r with
  | some v => .ok v
  | none => .error (.uninitRegister r)

/-- `x[i] <- v` (R9). -/
def writeReg (s : State) (r : Reg) (v : Word) : State := { s with regs := s.regs.set r (some v) }

/-- `x[1] <- novalue` to `x[5] <- novalue`: what a call and a legacy packet load leave (R24, R307). -/
def clobberArgs (s : State) : State :=
  { s with regs := { s.regs with r1 := none, r2 := none, r3 := none, r4 := none, r5 := none } }

/-! ### Program counter -/

/-- `pc <- pc + len` (R10, R29). -/
def advance (s : State) (len : Int) : State := { s with pc := s.pc + len }

/-- `pc <- pc + 1 + s_16(offset)` (R29, R191). -/
def jumpTo (s : State) (off : Off) : State := { s with pc := s.pc + 1 + off.toInt }

/-- The slot at `pc`, for the record of `IllegalInstruction` (R322); zero where `pc` names none (log entry 10). -/
def slotAtPc (s : State) : Word := if s.pc < 0 then 0 else s.program.getD s.pc.toNat 0

/-! ### Outcomes: the one way a fault is taken -/

/-- `raise F(info)` (R321): the outcome becomes `Fault(F(info))` and nothing else changes; `pc` stays at the faulting
instruction. There is no handler to enter and no return from one (R324, R325). -/
def raise (s : State) (f : Fault) : State := { s with outcome := .fault f }

/-- How the body of a meaning ends: with the state it answers, or by taking the fault it raised (R14, R321). -/
def settle (s : State) (r : Except Fault State) : State :=
  match r with
  | .ok t => t
  | .error f => raise s f

/-- The frame of every meaning: an ill-formed instruction raises `IllegalInstruction` before anything else (R91, R323
step 2, log entry 11); otherwise the body runs, and a fault it raises is taken. -/
def attempt (i : Instr) (s : State) (body : State → Except Fault State) : Host.Outcome State Fault Refusal :=
  match i.illFormed? s.params with
  | some r => .next (raise s (.illegalInstruction r (slotAtPc s)))
  | none => .next (settle s (body s))

/-! ### Memory cells -/

/-- The byte at an address, or `none` for `nobyte` (R34, R58). -/
def readByte : Memory → Nat → Option Byte
  | [], _ => none
  | (c, v) :: m, a => if c = a then some v else readByte m a

/-- Memory with the byte `b` at the address `a`, in canonical form: addresses strictly rising. -/
def writeByte : Memory → Nat → Byte → Memory
  | [], a, b => [(a, b)]
  | (c, v) :: m, a, b =>
    if a < c then (a, b) :: (c, v) :: m
    else if a = c then (a, b) :: m
    else (c, v) :: writeByte m a b

/-- The `n` bytes from address `a` on, if none of them is `nobyte`. -/
def readBytes (m : Memory) (a : Nat) : Nat → Option (List Byte)
  | 0 => some []
  | n + 1 =>
    match readByte m a, readBytes m (a + 1) n with
    | some b, some bs => some (b :: bs)
    | _, _ => none

/-- Memory with these bytes from address `a` on. -/
def writeBytes (m : Memory) (a : Nat) : List Byte → Memory
  | [] => m
  | b :: bs => writeBytes (writeByte m a b) (a + 1) bs

/-- The canonical form: strictly rising addresses, all of the 64-bit data space (R40). No cell can hold what an
unlisted address reads as, which is `nobyte`. -/
def Memory.wf (m : Memory) : Bool :=
  decide (m.Pairwise (fun x y => x.1 < y.1)) && m.all (fun c => decide (c.1 < 2 ^ 64))

/-! ### The access primitives -/

/-- `addr = x[base] +_64 sext_64(offset)` (R60, R250). -/
def effAddr (base : Word) (off : Off) : Word := base + sextOff off

/-- The region that holds the `n` bytes at `a`, if one does (R41 step 2); the first one, where regions overlap, which
R43 rules out (log entry 17). -/
def findRegion (regions : List Region) (a n : Nat) : Option Region :=
  regions.find? (fun r => decide (r.base ≤ a) && decide (a + n ≤ r.base + r.length))

/-- The permission of a region for a direction (R41, R42). -/
def permits (r : Region) : Access → Bool
  | .read => r.readable
  | .write => r.writable

/-- Checks 1 and 2 of R41 and R42: the bytes lie below 2^64 and inside one region with the permission. -/
def checkRegion (s : State) (addr : Word) (size : Size) (dir : Access) : Except Fault Region :=
  if 2 ^ 64 < addr.toNat + size.bytes then .error (.memFault addr size.bytes dir)
  else
    match findRegion s.regions addr.toNat size.bytes with
    | none => .error (.memFault addr size.bytes dir)
    | some r => if permits r dir then .ok r else .error (.memFault addr size.bytes dir)

/-- The address is a multiple of the size (R48). -/
def isAligned (addr : Word) (size : Size) : Bool := addr.toNat % size.bytes == 0

/-- Check 3 of R41 and R42. An atomic access (`atomic`) must be aligned under either value of `MISALIGNED` (R48,
R275). -/
def checkAligned (s : State) (atomic : Bool) (addr : Word) (size : Size) : Except Fault Unit :=
  if isAligned addr size || (!atomic && s.params.misaligned == .permit) then .ok ()
  else .error (.misaligned addr size.bytes)

/-- The bytes that the shared read number `tick` finds: the free values of `ORACLE` (R52). -/
def oracleBytes (tick a : Nat) : Nat → List Byte
  | 0 => []
  | n + 1 => Config.oracle tick a :: oracleBytes tick (a + 1) n

/-- Steps 4 and 5 of R41: the bytes from `ORACLE` in a shared region (the model counts the read), else from memory,
put together in host byte order and zero-extended to 64 bits; `UninitMemory` for a `nobyte` (R58). -/
def loadBytes (s : State) (r : Region) (addr : Word) (size : Size) : Except Fault (Word × State) :=
  if r.shared then
    .ok (joinLE (hostOrder s.params.hostEndian (oracleBytes s.oracleTick addr.toNat size.bytes)),
      { s with oracleTick := s.oracleTick + 1 })
  else
    match readBytes s.mem addr.toNat size.bytes with
    | some bs => .ok (joinLE (hostOrder s.params.hostEndian bs), s)
    | none => .error (.uninitMemory addr size.bytes)

/-- The bytes of the low `8n` bits of a value in the order of rising addresses (R42). -/
def storedBytes (s : State) (size : Size) (v : Word) : List Byte :=
  hostOrder s.params.hostEndian (splitLE size.bytes v)

/-- The store of R42, all checks made. -/
def storeBytes (s : State) (addr : Word) (size : Size) (v : Word) : State :=
  { s with mem := writeBytes s.mem addr.toNat (storedBytes s size v) }

/-- `MemRead(addr, n)` (R41), zero-extended to 64 bits, and the state after it. -/
def memRead (s : State) (addr : Word) (size : Size) : Except Fault (Word × State) := do
  let r ← checkRegion s addr size .read
  checkAligned s false addr size
  loadBytes s r addr size

/-- `MemWrite(addr, n, trunc_8n(v))` (R42, R252). -/
def memWrite (s : State) (addr : Word) (size : Size) (v : Word) : Except Fault State := do
  let _ ← checkRegion s addr size .write
  checkAligned s false addr size
  return storeBytes s addr size v

/-- The read-modify-write of an atomic instruction (R270), in the order of checks of R275: the old value, and the state
in which `f old` is stored. One step of the machine, hence indivisible (R50). -/
def atomicUpdate (s : State) (addr : Word) (size : Size) (f : Word → Word) : Except Fault (Word × State) := do
  let r ← checkRegion s addr size .read
  let _ ← checkRegion s addr size .write
  checkAligned s true addr size
  let (old, t) ← loadBytes s r addr size
  return (old, storeBytes t addr size (f old))

/-! ### The packet -/

/-- The packet, where one is present and R6 holds its designator `x6`; else `PacketContext` (R306). -/
def packetOf (s : State) (x6 : Word) : Except Fault Packet :=
  match s.packet with
  | none => .error .packetContext
  | some p => if x6 = p.designator then .ok p else .error .packetContext

/-- The packet bytes at offset `o`, `n` of them, unless the access is beyond the boundary (R308). -/
def packetBytes (p : Packet) (o : Int) (n : Nat) : Option (List Byte) :=
  if o < 0 ∨ (p.data.length : Int) < o + n then none
  else some ((p.data.drop o.toNat).take n)

end Sys2Proof.Machine
end

