-- ==== Sys2Proof/Machine/Operands.lean ====
section
/-! DEFINITION. The source operand of an arithmetic instruction or a conditional jump, in both widths (`30_encoding.md`
R78, R84; `40_alu.md` R111; `42_jump.md` R192). -/

namespace Sys2Proof.Machine

/-- What the source bit chooses: `BPF_K` the immediate, `BPF_X` the register (R78). -/
inductive Source where
  | k (imm : Imm)
  | x (r : Reg)
deriving DecidableEq, Repr

/-- `A` for 64-bit operands: `x[dst_reg]` (R111, R192). -/
def first64 (s : State) (dst : Reg) : Except Fault Word := readReg s dst

/-- `A` for 32-bit operands: `x[dst_reg][31:0]` (R111, R192, R194). -/
def first32 (s : State) (dst : Reg) : Except Fault (BitVec 32) :=
  match readReg s dst with
  | .ok v => .ok (low32 v)
  | .error f => .error f

/-- `B` for 64-bit operands: `sext_64(imm)` or `x[src_reg]` (R84, R111, R192). -/
def source64 (s : State) : Source → Except Fault Word
  | .k imm => .ok (sextImm imm)
  | .x r => readReg s r

/-- `B` for 32-bit operands: the 32 bits of `imm` as they stand, or `x[src_reg][31:0]` (R84, R111, R192). -/
def source32 (s : State) : Source → Except Fault (BitVec 32)
  | .k imm => .ok imm
  | .x r => first32 s r

end Sys2Proof.Machine
end

