-- ==== Sys2Proof/Machine/Flags.lean ====
section
/-! DEFINITION. The machine has no flags (`10_state.md` R30): a conditional jump compares its two operands itself. This
file holds those comparisons, which stand where other machines keep flags (`42_jump.md` R193, R194). -/

namespace Sys2Proof.Machine

/-- The conditions of the jump codes (R80). -/
inductive Cond where
  | eq | gt | ge | set | ne | sgt | sge | lt | le | slt | sle
deriving DecidableEq, Repr

/-- Whether the condition holds of `A` and `B` (R193): unsigned comparisons by `u`, signed ones by `s_W` in two's
complement of the operands' width, `set` by the bitwise and. -/
def Cond.holds {w : Nat} (c : Cond) (a b : BitVec w) : Bool :=
  match c with
  | .eq => a == b
  | .ne => a != b
  | .set => a &&& b != 0#w
  | .gt => decide (b.toNat < a.toNat)
  | .ge => decide (b.toNat ≤ a.toNat)
  | .lt => decide (a.toNat < b.toNat)
  | .le => decide (a.toNat ≤ b.toNat)
  | .sgt => decide (b.toInt < a.toInt)
  | .sge => decide (b.toInt ≤ a.toInt)
  | .slt => decide (a.toInt < b.toInt)
  | .sle => decide (a.toInt ≤ b.toInt)

end Sys2Proof.Machine
end

