-- ==== Sys2Proof/Machine/Alu.lean ====
section
/-! DEFINITION. The 52 arithmetic instructions (`40_alu.md` R110 to R171). The operations are written once for every
width; `alu64` and `alu32` apply one to the operands of a class. -/

namespace Sys2Proof.Machine

/-- An arithmetic operation on `A` and `B` of any width: its result or the fault it raises. -/
abbrev AluOp := {w : Nat} → Params → BitVec w → BitVec w → Except Fault (BitVec w)

/-- `A +_W B` (R113). -/
def opAdd : AluOp := fun _ a b => .ok (a + b)

/-- `A -_W B` (R113). -/
def opSub : AluOp := fun _ a b => .ok (a - b)

/-- `A *_W B` (R113). -/
def opMul : AluOp := fun _ a b => .ok (a * b)

/-- The bitwise or. -/
def opOr : AluOp := fun _ a b => .ok (a ||| b)

/-- The bitwise and. -/
def opAnd : AluOp := fun _ a b => .ok (a &&& b)

/-- The bitwise exclusive or. -/
def opXor : AluOp := fun _ a b => .ok (a ^^^ b)

/-- `udiv_W(A, B)` (R114); a zero divisor by `DIV_BY_ZERO` (R115). -/
def opDiv : AluOp := fun {w} p a b =>
  if b = 0#w then
    match p.divByZero with
    | .fault => .error .divideByZero
    | .zeroAndKeep => .ok 0#w
  else .ok (a.udiv b)

/-- `urem_W(A, B)` (R114); a zero divisor by `DIV_BY_ZERO` (R115). -/
def opMod : AluOp := fun {w} p a b =>
  if b = 0#w then
    match p.divByZero with
    | .fault => .error .divideByZero
    | .zeroAndKeep => .ok a
  else .ok (a.umod b)

/-- The amount of a shift, `u(B)`; one not below the width by `SHIFT_OVERFLOW` (R116). -/
def shiftAmount {w : Nat} (p : Params) (b : BitVec w) : Except Fault Nat :=
  if b.toNat < w then .ok b.toNat
  else
    match p.shiftOverflow with
    | .fault => .error .shiftOutOfRange
    | .mask => .ok (b.toNat % w)

/-- `shl_W(A, n)` (R116). -/
def opLsh : AluOp := fun p a b => do
  let n ← shiftAmount p b
  return a <<< n

/-- `lshr_W(A, n)`: zeros are shifted in (R114, R116). -/
def opRsh : AluOp := fun p a b => do
  let n ← shiftAmount p b
  return a >>> n

/-- `ashr_W(A, n)`: copies of the top bit are shifted in (R114, R116). -/
def opArsh : AluOp := fun p a b => do
  let n ← shiftAmount p b
  return a.sshiftRight n

/-- An instruction of class `BPF_ALU64` with both operands (R110, R111): `A` is read first, then `B` (R118). -/
def alu64 (op : AluOp) (dst : Reg) (b : Source) (s : State) : Except Fault State := do
  let x ← first64 s dst
  let y ← source64 s b
  let z ← op s.params x y
  return advance (writeReg s dst z) 1

/-- An instruction of class `BPF_ALU` with both operands: the low halves, the result zero-extended (R111, R112). -/
def alu32 (op : AluOp) (dst : Reg) (b : Source) (s : State) : Except Fault State := do
  let x ← first32 s dst
  let y ← source32 s b
  let z ← op s.params x y
  return advance (writeReg s dst (zext32 z)) 1

/-- `x[dst_reg] <- B`: the destination is not read (R25). -/
def mov64 (dst : Reg) (b : Source) (s : State) : Except Fault State := do
  let y ← source64 s b
  return advance (writeReg s dst y) 1

/-- `x[dst_reg] <- zext_64(B)` (R25, R112). -/
def mov32 (dst : Reg) (b : Source) (s : State) : Except Fault State := do
  let y ← source32 s b
  return advance (writeReg s dst (zext32 y)) 1

/-- `BPF_NEG` in class `BPF_ALU64` (R117): `~B` without reading the destination, or `0 -_64 x[dst_reg]`. -/
def neg64 (dst : Reg) (b : Source) (s : State) : Except Fault State :=
  match s.params.negSemantics with
  | .sourceLiteral => do
    let y ← source64 s b
    return advance (writeReg s dst (~~~y)) 1
  | .twosComplement => do
    let x ← first64 s dst
    return advance (writeReg s dst (0 - x)) 1

/-- `BPF_NEG` in class `BPF_ALU` (R117): on 32 bits, the result zero-extended. -/
def neg32 (dst : Reg) (b : Source) (s : State) : Except Fault State :=
  match s.params.negSemantics with
  | .sourceLiteral => do
    let y ← source32 s b
    return advance (writeReg s dst (zext32 (~~~y))) 1
  | .twosComplement => do
    let x ← first32 s dst
    return advance (writeReg s dst (zext32 (0 - x))) 1

/-- R120 `add32_k`: the sum modulo `2^W`, 32 bits, immediate source. -/
def execAdd32K (dst : Reg) (imm : Imm) (s : State) : Host.Outcome State Fault Refusal :=
  attempt (.add32K dst imm) s (alu32 opAdd dst (.k imm))

/-- R121 `add32_x`: the sum modulo `2^W`, 32 bits, register source. -/
def execAdd32X (dst src : Reg) (s : State) : Host.Outcome State Fault Refusal :=
  attempt (.add32X dst src) s (alu32 opAdd dst (.x src))

/-- R122 `add64_k`: the sum modulo `2^W`, 64 bits, immediate source. -/
def execAdd64K (dst : Reg) (imm : Imm) (s : State) : Host.Outcome State Fault Refusal :=
  attempt (.add64K dst imm) s (alu64 opAdd dst (.k imm))

/-- R123 `add64_x`: the sum modulo `2^W`, 64 bits, register source. -/
def execAdd64X (dst src : Reg) (s : State) : Host.Outcome State Fault Refusal :=
  attempt (.add64X dst src) s (alu64 opAdd dst (.x src))

/-- R124 `sub32_k`: the difference modulo `2^W`, 32 bits, immediate source. -/
def execSub32K (dst : Reg) (imm : Imm) (s : State) : Host.Outcome State Fault Refusal :=
  attempt (.sub32K dst imm) s (alu32 opSub dst (.k imm))

/-- R125 `sub32_x`: the difference modulo `2^W`, 32 bits, register source. -/
def execSub32X (dst src : Reg) (s : State) : Host.Outcome State Fault Refusal :=
  attempt (.sub32X dst src) s (alu32 opSub dst (.x src))

/-- R126 `sub64_k`: the difference modulo `2^W`, 64 bits, immediate source. -/
def execSub64K (dst : Reg) (imm : Imm) (s : State) : Host.Outcome State Fault Refusal :=
  attempt (.sub64K dst imm) s (alu64 opSub dst (.k imm))

/-- R127 `sub64_x`: the difference modulo `2^W`, 64 bits, register source. -/
def execSub64X (dst src : Reg) (s : State) : Host.Outcome State Fault Refusal :=
  attempt (.sub64X dst src) s (alu64 opSub dst (.x src))

/-- R128 `mul32_k`: the low `W` bits of the product, 32 bits, immediate source. -/
def execMul32K (dst : Reg) (imm : Imm) (s : State) : Host.Outcome State Fault Refusal :=
  attempt (.mul32K dst imm) s (alu32 opMul dst (.k imm))

/-- R129 `mul32_x`: the low `W` bits of the product, 32 bits, register source. -/
def execMul32X (dst src : Reg) (s : State) : Host.Outcome State Fault Refusal :=
  attempt (.mul32X dst src) s (alu32 opMul dst (.x src))

/-- R130 `mul64_k`: the low `W` bits of the product, 64 bits, immediate source. -/
def execMul64K (dst : Reg) (imm : Imm) (s : State) : Host.Outcome State Fault Refusal :=
  attempt (.mul64K dst imm) s (alu64 opMul dst (.k imm))

/-- R131 `mul64_x`: the low `W` bits of the product, 64 bits, register source. -/
def execMul64X (dst src : Reg) (s : State) : Host.Outcome State Fault Refusal :=
  attempt (.mul64X dst src) s (alu64 opMul dst (.x src))

/-- R132 `div32_k`: the unsigned quotient, 32 bits, immediate source. -/
def execDiv32K (dst : Reg) (imm : Imm) (s : State) : Host.Outcome State Fault Refusal :=
  attempt (.div32K dst imm) s (alu32 opDiv dst (.k imm))

/-- R133 `div32_x`: the unsigned quotient, 32 bits, register source. -/
def execDiv32X (dst src : Reg) (s : State) : Host.Outcome State Fault Refusal :=
  attempt (.div32X dst src) s (alu32 opDiv dst (.x src))

/-- R134 `div64_k`: the unsigned quotient, 64 bits, immediate source. -/
def execDiv64K (dst : Reg) (imm : Imm) (s : State) : Host.Outcome State Fault Refusal :=
  attempt (.div64K dst imm) s (alu64 opDiv dst (.k imm))

/-- R135 `div64_x`: the unsigned quotient, 64 bits, register source. -/
def execDiv64X (dst src : Reg) (s : State) : Host.Outcome State Fault Refusal :=
  attempt (.div64X dst src) s (alu64 opDiv dst (.x src))

/-- R136 `or32_k`: bitwise or, 32 bits, immediate source. -/
def execOr32K (dst : Reg) (imm : Imm) (s : State) : Host.Outcome State Fault Refusal :=
  attempt (.or32K dst imm) s (alu32 opOr dst (.k imm))

/-- R137 `or32_x`: bitwise or, 32 bits, register source. -/
def execOr32X (dst src : Reg) (s : State) : Host.Outcome State Fault Refusal :=
  attempt (.or32X dst src) s (alu32 opOr dst (.x src))

/-- R138 `or64_k`: bitwise or, 64 bits, immediate source. -/
def execOr64K (dst : Reg) (imm : Imm) (s : State) : Host.Outcome State Fault Refusal :=
  attempt (.or64K dst imm) s (alu64 opOr dst (.k imm))

/-- R139 `or64_x`: bitwise or, 64 bits, register source. -/
def execOr64X (dst src : Reg) (s : State) : Host.Outcome State Fault Refusal :=
  attempt (.or64X dst src) s (alu64 opOr dst (.x src))

/-- R140 `and32_k`: bitwise and, 32 bits, immediate source. -/
def execAnd32K (dst : Reg) (imm : Imm) (s : State) : Host.Outcome State Fault Refusal :=
  attempt (.and32K dst imm) s (alu32 opAnd dst (.k imm))

/-- R141 `and32_x`: bitwise and, 32 bits, register source. -/
def execAnd32X (dst src : Reg) (s : State) : Host.Outcome State Fault Refusal :=
  attempt (.and32X dst src) s (alu32 opAnd dst (.x src))

/-- R142 `and64_k`: bitwise and, 64 bits, immediate source. -/
def execAnd64K (dst : Reg) (imm : Imm) (s : State) : Host.Outcome State Fault Refusal :=
  attempt (.and64K dst imm) s (alu64 opAnd dst (.k imm))

/-- R143 `and64_x`: bitwise and, 64 bits, register source. -/
def execAnd64X (dst src : Reg) (s : State) : Host.Outcome State Fault Refusal :=
  attempt (.and64X dst src) s (alu64 opAnd dst (.x src))

/-- R144 `lsh32_k`: shift left, 32 bits, immediate source. -/
def execLsh32K (dst : Reg) (imm : Imm) (s : State) : Host.Outcome State Fault Refusal :=
  attempt (.lsh32K dst imm) s (alu32 opLsh dst (.k imm))

/-- R145 `lsh32_x`: shift left, 32 bits, register source. -/
def execLsh32X (dst src : Reg) (s : State) : Host.Outcome State Fault Refusal :=
  attempt (.lsh32X dst src) s (alu32 opLsh dst (.x src))

/-- R146 `lsh64_k`: shift left, 64 bits, immediate source. -/
def execLsh64K (dst : Reg) (imm : Imm) (s : State) : Host.Outcome State Fault Refusal :=
  attempt (.lsh64K dst imm) s (alu64 opLsh dst (.k imm))

/-- R147 `lsh64_x`: shift left, 64 bits, register source. -/
def execLsh64X (dst src : Reg) (s : State) : Host.Outcome State Fault Refusal :=
  attempt (.lsh64X dst src) s (alu64 opLsh dst (.x src))

/-- R148 `rsh32_k`: logical shift right, 32 bits, immediate source. -/
def execRsh32K (dst : Reg) (imm : Imm) (s : State) : Host.Outcome State Fault Refusal :=
  attempt (.rsh32K dst imm) s (alu32 opRsh dst (.k imm))

/-- R149 `rsh32_x`: logical shift right, 32 bits, register source. -/
def execRsh32X (dst src : Reg) (s : State) : Host.Outcome State Fault Refusal :=
  attempt (.rsh32X dst src) s (alu32 opRsh dst (.x src))

/-- R150 `rsh64_k`: logical shift right, 64 bits, immediate source. -/
def execRsh64K (dst : Reg) (imm : Imm) (s : State) : Host.Outcome State Fault Refusal :=
  attempt (.rsh64K dst imm) s (alu64 opRsh dst (.k imm))

/-- R151 `rsh64_x`: logical shift right, 64 bits, register source. -/
def execRsh64X (dst src : Reg) (s : State) : Host.Outcome State Fault Refusal :=
  attempt (.rsh64X dst src) s (alu64 opRsh dst (.x src))

/-- R152 `neg32_k`: `dst = ~src`, or `dst = -dst`, 32 bits, immediate source. -/
def execNeg32K (dst : Reg) (imm : Imm) (s : State) : Host.Outcome State Fault Refusal :=
  attempt (.neg32K dst imm) s (neg32 dst (.k imm))

/-- R153 `neg32_x`: `dst = ~src`, or `dst = -dst`, 32 bits, register source. -/
def execNeg32X (dst src : Reg) (s : State) : Host.Outcome State Fault Refusal :=
  attempt (.neg32X dst src) s (neg32 dst (.x src))

/-- R154 `neg64_k`: `dst = ~src`, or `dst = -dst`, 64 bits, immediate source. -/
def execNeg64K (dst : Reg) (imm : Imm) (s : State) : Host.Outcome State Fault Refusal :=
  attempt (.neg64K dst imm) s (neg64 dst (.k imm))

/-- R155 `neg64_x`: `dst = ~src`, or `dst = -dst`, 64 bits, register source. -/
def execNeg64X (dst src : Reg) (s : State) : Host.Outcome State Fault Refusal :=
  attempt (.neg64X dst src) s (neg64 dst (.x src))

/-- R156 `mod32_k`: the unsigned remainder, 32 bits, immediate source. -/
def execMod32K (dst : Reg) (imm : Imm) (s : State) : Host.Outcome State Fault Refusal :=
  attempt (.mod32K dst imm) s (alu32 opMod dst (.k imm))

/-- R157 `mod32_x`: the unsigned remainder, 32 bits, register source. -/
def execMod32X (dst src : Reg) (s : State) : Host.Outcome State Fault Refusal :=
  attempt (.mod32X dst src) s (alu32 opMod dst (.x src))

/-- R158 `mod64_k`: the unsigned remainder, 64 bits, immediate source. -/
def execMod64K (dst : Reg) (imm : Imm) (s : State) : Host.Outcome State Fault Refusal :=
  attempt (.mod64K dst imm) s (alu64 opMod dst (.k imm))

/-- R159 `mod64_x`: the unsigned remainder, 64 bits, register source. -/
def execMod64X (dst src : Reg) (s : State) : Host.Outcome State Fault Refusal :=
  attempt (.mod64X dst src) s (alu64 opMod dst (.x src))

/-- R160 `xor32_k`: bitwise exclusive or, 32 bits, immediate source. -/
def execXor32K (dst : Reg) (imm : Imm) (s : State) : Host.Outcome State Fault Refusal :=
  attempt (.xor32K dst imm) s (alu32 opXor dst (.k imm))

/-- R161 `xor32_x`: bitwise exclusive or, 32 bits, register source. -/
def execXor32X (dst src : Reg) (s : State) : Host.Outcome State Fault Refusal :=
  attempt (.xor32X dst src) s (alu32 opXor dst (.x src))

/-- R162 `xor64_k`: bitwise exclusive or, 64 bits, immediate source. -/
def execXor64K (dst : Reg) (imm : Imm) (s : State) : Host.Outcome State Fault Refusal :=
  attempt (.xor64K dst imm) s (alu64 opXor dst (.k imm))

/-- R163 `xor64_x`: bitwise exclusive or, 64 bits, register source. -/
def execXor64X (dst src : Reg) (s : State) : Host.Outcome State Fault Refusal :=
  attempt (.xor64X dst src) s (alu64 opXor dst (.x src))

/-- R164 `mov32_k`: copy, 32 bits, immediate source. -/
def execMov32K (dst : Reg) (imm : Imm) (s : State) : Host.Outcome State Fault Refusal :=
  attempt (.mov32K dst imm) s (mov32 dst (.k imm))

/-- R165 `mov32_x`: copy, 32 bits, register source. -/
def execMov32X (dst src : Reg) (s : State) : Host.Outcome State Fault Refusal :=
  attempt (.mov32X dst src) s (mov32 dst (.x src))

/-- R166 `mov64_k`: copy, 64 bits, immediate source. -/
def execMov64K (dst : Reg) (imm : Imm) (s : State) : Host.Outcome State Fault Refusal :=
  attempt (.mov64K dst imm) s (mov64 dst (.k imm))

/-- R167 `mov64_x`: copy, 64 bits, register source. -/
def execMov64X (dst src : Reg) (s : State) : Host.Outcome State Fault Refusal :=
  attempt (.mov64X dst src) s (mov64 dst (.x src))

/-- R168 `arsh32_k`: arithmetic shift right, 32 bits, immediate source. -/
def execArsh32K (dst : Reg) (imm : Imm) (s : State) : Host.Outcome State Fault Refusal :=
  attempt (.arsh32K dst imm) s (alu32 opArsh dst (.k imm))

/-- R169 `arsh32_x`: arithmetic shift right, 32 bits, register source. -/
def execArsh32X (dst src : Reg) (s : State) : Host.Outcome State Fault Refusal :=
  attempt (.arsh32X dst src) s (alu32 opArsh dst (.x src))

/-- R170 `arsh64_k`: arithmetic shift right, 64 bits, immediate source. -/
def execArsh64K (dst : Reg) (imm : Imm) (s : State) : Host.Outcome State Fault Refusal :=
  attempt (.arsh64K dst imm) s (alu64 opArsh dst (.k imm))

/-- R171 `arsh64_x`: arithmetic shift right, 64 bits, register source. -/
def execArsh64X (dst src : Reg) (s : State) : Host.Outcome State Fault Refusal :=
  attempt (.arsh64X dst src) s (alu64 opArsh dst (.x src))

end Sys2Proof.Machine
end

