-- ==== Sys2Proof/Machine/Atomic.lean ====
section
/-! DEFINITION. The atomic operations (`44_atomic.md` R270 to R296). Memory values and operands of the 32-bit forms are
held zero-extended: the store takes the low 32 bits, so the operation is modulo `2^32` (R274). -/

namespace Sys2Proof.Machine

/-- The part of a register that an atomic operation of this size uses (R272, R274): all of it, or `[31:0]`. -/
def atomicOperand (size : Size) (v : Word) : Word := lowBytes size.bytes v

/-- The start of every atomic instruction (R275): the base is read, then the source register, then memory is updated
with `f old S`. The answer is the old value, and the state after the update. -/
def atomicAccess (size : Size) (dst src : Reg) (off : Off) (f : Word → Word → Word) (s : State) :
    Except Fault (Word × State) := do
  let base ← readReg s dst
  let v ← readReg s src
  atomicUpdate s (effAddr base off) size (fun old => f old (atomicOperand size v))

/-- A simple operation without `BPF_FETCH`: no register is written (R272). -/
def atomicPlain (size : Size) (f : Word → Word → Word) (dst src : Reg) (off : Off) (s : State) :
    Except Fault State := do
  let (_, t) ← atomicAccess size dst src off f s
  return advance t 1

/-- An operation with `BPF_FETCH`, and `BPF_XCHG`: `x[src_reg] <- zext_64(old)` after the write (R273). -/
def atomicFetch (size : Size) (f : Word → Word → Word) (dst src : Reg) (off : Off) (s : State) :
    Except Fault State := do
  let (old, t) ← atomicAccess size dst src off f s
  return advance (writeReg t src old) 1

/-- `BPF_CMPXCHG` (R272, R273): `S` is stored where `old = R`, else `old` again; `x[0] <- zext_64(old)` in either
case. R0 is read after the two registers of the instruction (R275). -/
def atomicCompare (size : Size) (dst src : Reg) (off : Off) (s : State) : Except Fault State := do
  let base ← readReg s dst
  let v ← readReg s src
  let r ← readReg s .r0
  let (old, t) ← atomicUpdate s (effAddr base off) size
    (fun old => if old = atomicOperand size r then atomicOperand size v else old)
  return advance (writeReg t .r0 old) 1

/-- R277 `atomic_add32`: atomic add, 32 bits. -/
def execAtomicAdd32 (dst src : Reg) (off : Off) (s : State) : Host.Outcome State Fault Refusal :=
  attempt (.atomicAdd32 dst src off) s (atomicPlain .w (fun old v => old + v) dst src off)

/-- R278 `atomic_fetch_add32`: atomic add, the old value returned, 32 bits. -/
def execAtomicFetchAdd32 (dst src : Reg) (off : Off) (s : State) : Host.Outcome State Fault Refusal :=
  attempt (.atomicFetchAdd32 dst src off) s (atomicFetch .w (fun old v => old + v) dst src off)

/-- R279 `atomic_or32`: atomic or, 32 bits. -/
def execAtomicOr32 (dst src : Reg) (off : Off) (s : State) : Host.Outcome State Fault Refusal :=
  attempt (.atomicOr32 dst src off) s (atomicPlain .w (fun old v => old ||| v) dst src off)

/-- R280 `atomic_fetch_or32`: atomic or, the old value returned, 32 bits. -/
def execAtomicFetchOr32 (dst src : Reg) (off : Off) (s : State) : Host.Outcome State Fault Refusal :=
  attempt (.atomicFetchOr32 dst src off) s (atomicFetch .w (fun old v => old ||| v) dst src off)

/-- R281 `atomic_and32`: atomic and, 32 bits. -/
def execAtomicAnd32 (dst src : Reg) (off : Off) (s : State) : Host.Outcome State Fault Refusal :=
  attempt (.atomicAnd32 dst src off) s (atomicPlain .w (fun old v => old &&& v) dst src off)

/-- R282 `atomic_fetch_and32`: atomic and, the old value returned, 32 bits. -/
def execAtomicFetchAnd32 (dst src : Reg) (off : Off) (s : State) : Host.Outcome State Fault Refusal :=
  attempt (.atomicFetchAnd32 dst src off) s (atomicFetch .w (fun old v => old &&& v) dst src off)

/-- R283 `atomic_xor32`: atomic xor, 32 bits. -/
def execAtomicXor32 (dst src : Reg) (off : Off) (s : State) : Host.Outcome State Fault Refusal :=
  attempt (.atomicXor32 dst src off) s (atomicPlain .w (fun old v => old ^^^ v) dst src off)

/-- R284 `atomic_fetch_xor32`: atomic xor, the old value returned, 32 bits. -/
def execAtomicFetchXor32 (dst src : Reg) (off : Off) (s : State) : Host.Outcome State Fault Refusal :=
  attempt (.atomicFetchXor32 dst src off) s (atomicFetch .w (fun old v => old ^^^ v) dst src off)

/-- R285 `atomic_xchg32`: atomic exchange, 32 bits. -/
def execAtomicXchg32 (dst src : Reg) (off : Off) (s : State) : Host.Outcome State Fault Refusal :=
  attempt (.atomicXchg32 dst src off) s (atomicFetch .w (fun _ v => v) dst src off)

/-- R286 `atomic_cmpxchg32`: atomic compare and exchange, 32 bits. -/
def execAtomicCmpxchg32 (dst src : Reg) (off : Off) (s : State) : Host.Outcome State Fault Refusal :=
  attempt (.atomicCmpxchg32 dst src off) s (atomicCompare .w dst src off)

/-- R287 `atomic_add64`: atomic add, 64 bits. -/
def execAtomicAdd64 (dst src : Reg) (off : Off) (s : State) : Host.Outcome State Fault Refusal :=
  attempt (.atomicAdd64 dst src off) s (atomicPlain .dw (fun old v => old + v) dst src off)

/-- R288 `atomic_fetch_add64`: atomic add, the old value returned, 64 bits. -/
def execAtomicFetchAdd64 (dst src : Reg) (off : Off) (s : State) : Host.Outcome State Fault Refusal :=
  attempt (.atomicFetchAdd64 dst src off) s (atomicFetch .dw (fun old v => old + v) dst src off)

/-- R289 `atomic_or64`: atomic or, 64 bits. -/
def execAtomicOr64 (dst src : Reg) (off : Off) (s : State) : Host.Outcome State Fault Refusal :=
  attempt (.atomicOr64 dst src off) s (atomicPlain .dw (fun old v => old ||| v) dst src off)

/-- R290 `atomic_fetch_or64`: atomic or, the old value returned, 64 bits. -/
def execAtomicFetchOr64 (dst src : Reg) (off : Off) (s : State) : Host.Outcome State Fault Refusal :=
  attempt (.atomicFetchOr64 dst src off) s (atomicFetch .dw (fun old v => old ||| v) dst src off)

/-- R291 `atomic_and64`: atomic and, 64 bits. -/
def execAtomicAnd64 (dst src : Reg) (off : Off) (s : State) : Host.Outcome State Fault Refusal :=
  attempt (.atomicAnd64 dst src off) s (atomicPlain .dw (fun old v => old &&& v) dst src off)

/-- R292 `atomic_fetch_and64`: atomic and, the old value returned, 64 bits. -/
def execAtomicFetchAnd64 (dst src : Reg) (off : Off) (s : State) : Host.Outcome State Fault Refusal :=
  attempt (.atomicFetchAnd64 dst src off) s (atomicFetch .dw (fun old v => old &&& v) dst src off)

/-- R293 `atomic_xor64`: atomic xor, 64 bits. -/
def execAtomicXor64 (dst src : Reg) (off : Off) (s : State) : Host.Outcome State Fault Refusal :=
  attempt (.atomicXor64 dst src off) s (atomicPlain .dw (fun old v => old ^^^ v) dst src off)

/-- R294 `atomic_fetch_xor64`: atomic xor, the old value returned, 64 bits. -/
def execAtomicFetchXor64 (dst src : Reg) (off : Off) (s : State) : Host.Outcome State Fault Refusal :=
  attempt (.atomicFetchXor64 dst src off) s (atomicFetch .dw (fun old v => old ^^^ v) dst src off)

/-- R295 `atomic_xchg64`: atomic exchange, 64 bits. -/
def execAtomicXchg64 (dst src : Reg) (off : Off) (s : State) : Host.Outcome State Fault Refusal :=
  attempt (.atomicXchg64 dst src off) s (atomicFetch .dw (fun _ v => v) dst src off)

/-- R296 `atomic_cmpxchg64`: atomic compare and exchange, 64 bits. -/
def execAtomicCmpxchg64 (dst src : Reg) (off : Off) (s : State) : Host.Outcome State Fault Refusal :=
  attempt (.atomicCmpxchg64 dst src off) s (atomicCompare .dw dst src off)

end Sys2Proof.Machine
end

