-- ==== Sys2Proof/Machine/ByteSwap.lean ====
section
/-! DEFINITION. The six byte swaps (`41_byteswap.md` R180 to R188). -/

namespace Sys2Proof.Machine

/-- A byte swap of `8n` bits to the byte order `target` (R181): the low bits as they stand where the host has that
order, else their bytes reversed; the rest of the register zero. -/
def swapTo (target : Endian) (n : Nat) (host : Endian) (v : Word) : Word :=
  if target = host then lowBytes n v else bswap n v

/-- The instruction (R181): the destination is read and written. -/
def byteSwap (target : Endian) (n : Nat) (dst : Reg) (s : State) : Except Fault State := do
  let v ← readReg s dst
  return advance (writeReg s dst (swapTo target n s.params.hostEndian v)) 1

/-- R183 `le16`: host order to little-endian order, 16 bits. -/
def execLe16 (dst : Reg) (s : State) : Host.Outcome State Fault Refusal :=
  attempt (.le16 dst) s (byteSwap .little 2 dst)

/-- R184 `le32`: host order to little-endian order, 32 bits. -/
def execLe32 (dst : Reg) (s : State) : Host.Outcome State Fault Refusal :=
  attempt (.le32 dst) s (byteSwap .little 4 dst)

/-- R185 `le64`: host order to little-endian order, 64 bits. -/
def execLe64 (dst : Reg) (s : State) : Host.Outcome State Fault Refusal :=
  attempt (.le64 dst) s (byteSwap .little 8 dst)

/-- R186 `be16`: host order to big-endian order, 16 bits. -/
def execBe16 (dst : Reg) (s : State) : Host.Outcome State Fault Refusal :=
  attempt (.be16 dst) s (byteSwap .big 2 dst)

/-- R187 `be32`: host order to big-endian order, 32 bits. -/
def execBe32 (dst : Reg) (s : State) : Host.Outcome State Fault Refusal :=
  attempt (.be32 dst) s (byteSwap .big 4 dst)

/-- R188 `be64`: host order to big-endian order, 64 bits. -/
def execBe64 (dst : Reg) (s : State) : Host.Outcome State Fault Refusal :=
  attempt (.be64 dst) s (byteSwap .big 8 dst)

end Sys2Proof.Machine
end

