-- ==== Sys2Proof/Machine/Call.lean ====
section
/-! DEFINITION. `call` and `exit` (`42_jump.md` R244 to R246), and the functions of `HELPERS` as plain data (log
entry 6). -/

namespace Sys2Proof.Machine

/-- An operator of a called function's expression. -/
def applyHelperOp (op : HelperOp) (a b : Word) : Word :=
  match op with
  | .add => a + b
  | .sub => a - b
  | .and => a &&& b
  | .or => a ||| b
  | .xor => a ^^^ b
  | .eq => if a = b then 1 else 0

/-- The value of an expression over the values read so far; an index past them denotes zero (a convention of the
model's little language, not of the machine). -/
def evalHelper (vals : List Word) : HelperExpr → Word
  | .const v => v
  | .value i => vals.getD i 0
  | .binary op a b => applyHelperOp op (evalHelper vals a) (evalHelper vals b)

/-- The argument registers among these, lowest number first (R244, R323 step 3). -/
def argRegs (regs : List Reg) : List Reg := [Reg.r1, .r2, .r3, .r4, .r5].filter (fun r => decide (r ∈ regs))

/-- The values of these registers, read in this order; `UninitRegister(i)` for the first that holds `novalue`. -/
def readRegs (s : State) : List Reg → Except Fault (List Word)
  | [] => .ok []
  | r :: rs => do
    let v ← readReg s r
    let vs ← readRegs s rs
    return v :: vs

/-- The run of a called function's body over the values it has read: loads and stores through `MemRead` and `MemWrite`
(R59), further argument registers with `UninitRegister(i)` for the first that holds `novalue`, a failure as
`HelperFault` (R244). The answer is the value returned, and the state. -/
def runHelper (number : Imm) : HelperBody → List Word → State → Except Fault (Word × State)
  | .ret result, vals, s => .ok (evalHelper vals result, s)
  | .fail info, vals, _ => .error (.helperFault number (evalHelper vals info))
  | .readArgs regs next, vals, s => do
    let more ← readRegs s (argRegs regs)
    runHelper number next (vals ++ more) s
  | .load addr size next, vals, s => do
    let (v, t) ← memRead s (evalHelper vals addr) size
    runHelper number next (vals ++ [v]) t
  | .store addr size val next, vals, s => do
    let t ← memWrite s (evalHelper vals addr) size (evalHelper vals val)
    runHelper number next vals t
  | .branch cond yes no, vals, s =>
    if evalHelper vals cond = 0 then runHelper number no vals s else runHelper number yes vals s

/-- The body of a function for the arguments it read: as written out, or the free value of a function outside the
model. -/
def helperBody (h : Helper) (args : List Word) (mem : Memory) : HelperBody :=
  match h.kind with
  | .script body => body
  | .external => Config.externalHelper h.number args mem

/-- `(r, mem') = HELPERS[imm](x[1], .., x[5], mem)` (R244): the value returned, and the state with the function's memory
effects. -/
def applyHelper (h : Helper) (s : State) : Except Fault (Word × State) := do
  let args ← readRegs s (argRegs h.reads)
  runHelper h.number (helperBody h args s.mem) args s

/-- The function of a number, if the environment has one (R244). -/
def findHelper (helpers : List Helper) (number : Imm) : Option Helper :=
  helpers.find? (fun h => h.number == number)

/-- `call imm` (R244): R0 receives the result, R1 to R5 are left `novalue`, R6 to R10 are unchanged (R24, R246). -/
def callHelper (number : Imm) (s : State) : Except Fault State :=
  match findHelper s.helpers number with
  | none => .error (.unknownFunction number)
  | some h => do
    let (v, t) ← applyHelper h s
    return advance (clobberArgs (writeReg t .r0 v)) 1

/-- `exit` (R245): `outcome <- Exit(x[0])`; `pc` and the registers keep their values. -/
def exitProgram (s : State) : Except Fault State := do
  let v ← readReg s .r0
  return { s with outcome := .exit v }

/-- R244 `call`. -/
def execCall (imm : Imm) (s : State) : Host.Outcome State Fault Refusal :=
  attempt (.call imm) s (callHelper imm)

/-- R245 `exit`. -/
def execExit (s : State) : Host.Outcome State Fault Refusal :=
  attempt .exit s exitProgram

end Sys2Proof.Machine
end

