-- ==== Sys2Proof/Machine/Imm64.lean ====
section
/-! DEFINITION. The wide instruction (`45_imm64.md` R300 to R303). The decoder puts `imm64` together by
`LDDW_LAYOUT`. -/

namespace Sys2Proof.Machine

/-- `x[dst_reg] <- imm64; pc <- pc + 2` (R301): no register is read, no memory accessed. -/
def loadImm64 (dst : Reg) (imm64 : Word) (s : State) : Except Fault State :=
  .ok (advance (writeReg s dst imm64) 2)

/-- R301 `lddw`. -/
def execLddw (dst : Reg) (imm64 : Word) (s : State) : Host.Outcome State Fault Refusal :=
  attempt (.lddw dst imm64) s (loadImm64 dst imm64)

end Sys2Proof.Machine
end

