-- ==== Sys2Proof/Machine/Jump.lean ====
section
/-! DEFINITION. The jumps (`42_jump.md` R190 to R243). A jump writes `pc` and nothing else, and never faults on its
target (R195, R196). -/

namespace Sys2Proof.Machine

/-- The end of a conditional jump: to the target where the condition held, else to the next slot (R191). -/
def branch (s : State) (taken : Bool) (off : Off) : State :=
  if taken then jumpTo s off else advance s 1

/-- The unconditional jump (R191, R199): no register is read. -/
def jumpAlways (off : Off) (s : State) : Except Fault State := .ok (jumpTo s off)

/-- A conditional jump of class `BPF_JMP` (R190, R192): both operands are read, taken or not. -/
def jump64 (c : Cond) (dst : Reg) (b : Source) (off : Off) (s : State) : Except Fault State := do
  let x ← first64 s dst
  let y ← source64 s b
  return branch s (c.holds x y) off

/-- A conditional jump of class `BPF_JMP32`: it compares the low halves (R192, R194). -/
def jump32 (c : Cond) (dst : Reg) (b : Source) (off : Off) (s : State) : Except Fault State := do
  let x ← first32 s dst
  let y ← source32 s b
  return branch s (c.holds x y) off

/-- R199 `ja`: `pc <- pc + 1 + s_16(offset)`. -/
def execJa (off : Off) (s : State) : Host.Outcome State Fault Refusal :=
  attempt (.ja off) s (jumpAlways off)

/-- R200 `jeq_k`: taken if `A = B`, 64 bits, immediate source. -/
def execJeqK (dst : Reg) (imm : Imm) (off : Off) (s : State) : Host.Outcome State Fault Refusal :=
  attempt (.jeqK dst imm off) s (jump64 .eq dst (.k imm) off)

/-- R201 `jeq_x`: taken if `A = B`, 64 bits, register source. -/
def execJeqX (dst src : Reg) (off : Off) (s : State) : Host.Outcome State Fault Refusal :=
  attempt (.jeqX dst src off) s (jump64 .eq dst (.x src) off)

/-- R202 `jeq32_k`: taken if `A = B`, 32 bits, immediate source. -/
def execJeq32K (dst : Reg) (imm : Imm) (off : Off) (s : State) : Host.Outcome State Fault Refusal :=
  attempt (.jeq32K dst imm off) s (jump32 .eq dst (.k imm) off)

/-- R203 `jeq32_x`: taken if `A = B`, 32 bits, register source. -/
def execJeq32X (dst src : Reg) (off : Off) (s : State) : Host.Outcome State Fault Refusal :=
  attempt (.jeq32X dst src off) s (jump32 .eq dst (.x src) off)

/-- R204 `jgt_k`: taken if `u(A) > u(B)`, 64 bits, immediate source. -/
def execJgtK (dst : Reg) (imm : Imm) (off : Off) (s : State) : Host.Outcome State Fault Refusal :=
  attempt (.jgtK dst imm off) s (jump64 .gt dst (.k imm) off)

/-- R205 `jgt_x`: taken if `u(A) > u(B)`, 64 bits, register source. -/
def execJgtX (dst src : Reg) (off : Off) (s : State) : Host.Outcome State Fault Refusal :=
  attempt (.jgtX dst src off) s (jump64 .gt dst (.x src) off)

/-- R206 `jgt32_k`: taken if `u(A) > u(B)`, 32 bits, immediate source. -/
def execJgt32K (dst : Reg) (imm : Imm) (off : Off) (s : State) : Host.Outcome State Fault Refusal :=
  attempt (.jgt32K dst imm off) s (jump32 .gt dst (.k imm) off)

/-- R207 `jgt32_x`: taken if `u(A) > u(B)`, 32 bits, register source. -/
def execJgt32X (dst src : Reg) (off : Off) (s : State) : Host.Outcome State Fault Refusal :=
  attempt (.jgt32X dst src off) s (jump32 .gt dst (.x src) off)

/-- R208 `jge_k`: taken if `u(A) >= u(B)`, 64 bits, immediate source. -/
def execJgeK (dst : Reg) (imm : Imm) (off : Off) (s : State) : Host.Outcome State Fault Refusal :=
  attempt (.jgeK dst imm off) s (jump64 .ge dst (.k imm) off)

/-- R209 `jge_x`: taken if `u(A) >= u(B)`, 64 bits, register source. -/
def execJgeX (dst src : Reg) (off : Off) (s : State) : Host.Outcome State Fault Refusal :=
  attempt (.jgeX dst src off) s (jump64 .ge dst (.x src) off)

/-- R210 `jge32_k`: taken if `u(A) >= u(B)`, 32 bits, immediate source. -/
def execJge32K (dst : Reg) (imm : Imm) (off : Off) (s : State) : Host.Outcome State Fault Refusal :=
  attempt (.jge32K dst imm off) s (jump32 .ge dst (.k imm) off)

/-- R211 `jge32_x`: taken if `u(A) >= u(B)`, 32 bits, register source. -/
def execJge32X (dst src : Reg) (off : Off) (s : State) : Host.Outcome State Fault Refusal :=
  attempt (.jge32X dst src off) s (jump32 .ge dst (.x src) off)

/-- R212 `jset_k`: taken if `A & B` is not zero, 64 bits, immediate source. -/
def execJsetK (dst : Reg) (imm : Imm) (off : Off) (s : State) : Host.Outcome State Fault Refusal :=
  attempt (.jsetK dst imm off) s (jump64 .set dst (.k imm) off)

/-- R213 `jset_x`: taken if `A & B` is not zero, 64 bits, register source. -/
def execJsetX (dst src : Reg) (off : Off) (s : State) : Host.Outcome State Fault Refusal :=
  attempt (.jsetX dst src off) s (jump64 .set dst (.x src) off)

/-- R214 `jset32_k`: taken if `A & B` is not zero, 32 bits, immediate source. -/
def execJset32K (dst : Reg) (imm : Imm) (off : Off) (s : State) : Host.Outcome State Fault Refusal :=
  attempt (.jset32K dst imm off) s (jump32 .set dst (.k imm) off)

/-- R215 `jset32_x`: taken if `A & B` is not zero, 32 bits, register source. -/
def execJset32X (dst src : Reg) (off : Off) (s : State) : Host.Outcome State Fault Refusal :=
  attempt (.jset32X dst src off) s (jump32 .set dst (.x src) off)

/-- R216 `jne_k`: taken if `A != B`, 64 bits, immediate source. -/
def execJneK (dst : Reg) (imm : Imm) (off : Off) (s : State) : Host.Outcome State Fault Refusal :=
  attempt (.jneK dst imm off) s (jump64 .ne dst (.k imm) off)

/-- R217 `jne_x`: taken if `A != B`, 64 bits, register source. -/
def execJneX (dst src : Reg) (off : Off) (s : State) : Host.Outcome State Fault Refusal :=
  attempt (.jneX dst src off) s (jump64 .ne dst (.x src) off)

/-- R218 `jne32_k`: taken if `A != B`, 32 bits, immediate source. -/
def execJne32K (dst : Reg) (imm : Imm) (off : Off) (s : State) : Host.Outcome State Fault Refusal :=
  attempt (.jne32K dst imm off) s (jump32 .ne dst (.k imm) off)

/-- R219 `jne32_x`: taken if `A != B`, 32 bits, register source. -/
def execJne32X (dst src : Reg) (off : Off) (s : State) : Host.Outcome State Fault Refusal :=
  attempt (.jne32X dst src off) s (jump32 .ne dst (.x src) off)

/-- R220 `jsgt_k`: taken if `s(A) > s(B)`, 64 bits, immediate source. -/
def execJsgtK (dst : Reg) (imm : Imm) (off : Off) (s : State) : Host.Outcome State Fault Refusal :=
  attempt (.jsgtK dst imm off) s (jump64 .sgt dst (.k imm) off)

/-- R221 `jsgt_x`: taken if `s(A) > s(B)`, 64 bits, register source. -/
def execJsgtX (dst src : Reg) (off : Off) (s : State) : Host.Outcome State Fault Refusal :=
  attempt (.jsgtX dst src off) s (jump64 .sgt dst (.x src) off)

/-- R222 `jsgt32_k`: taken if `s(A) > s(B)`, 32 bits, immediate source. -/
def execJsgt32K (dst : Reg) (imm : Imm) (off : Off) (s : State) : Host.Outcome State Fault Refusal :=
  attempt (.jsgt32K dst imm off) s (jump32 .sgt dst (.k imm) off)

/-- R223 `jsgt32_x`: taken if `s(A) > s(B)`, 32 bits, register source. -/
def execJsgt32X (dst src : Reg) (off : Off) (s : State) : Host.Outcome State Fault Refusal :=
  attempt (.jsgt32X dst src off) s (jump32 .sgt dst (.x src) off)

/-- R224 `jsge_k`: taken if `s(A) >= s(B)`, 64 bits, immediate source. -/
def execJsgeK (dst : Reg) (imm : Imm) (off : Off) (s : State) : Host.Outcome State Fault Refusal :=
  attempt (.jsgeK dst imm off) s (jump64 .sge dst (.k imm) off)

/-- R225 `jsge_x`: taken if `s(A) >= s(B)`, 64 bits, register source. -/
def execJsgeX (dst src : Reg) (off : Off) (s : State) : Host.Outcome State Fault Refusal :=
  attempt (.jsgeX dst src off) s (jump64 .sge dst (.x src) off)

/-- R226 `jsge32_k`: taken if `s(A) >= s(B)`, 32 bits, immediate source. -/
def execJsge32K (dst : Reg) (imm : Imm) (off : Off) (s : State) : Host.Outcome State Fault Refusal :=
  attempt (.jsge32K dst imm off) s (jump32 .sge dst (.k imm) off)

/-- R227 `jsge32_x`: taken if `s(A) >= s(B)`, 32 bits, register source. -/
def execJsge32X (dst src : Reg) (off : Off) (s : State) : Host.Outcome State Fault Refusal :=
  attempt (.jsge32X dst src off) s (jump32 .sge dst (.x src) off)

/-- R228 `jlt_k`: taken if `u(A) < u(B)`, 64 bits, immediate source. -/
def execJltK (dst : Reg) (imm : Imm) (off : Off) (s : State) : Host.Outcome State Fault Refusal :=
  attempt (.jltK dst imm off) s (jump64 .lt dst (.k imm) off)

/-- R229 `jlt_x`: taken if `u(A) < u(B)`, 64 bits, register source. -/
def execJltX (dst src : Reg) (off : Off) (s : State) : Host.Outcome State Fault Refusal :=
  attempt (.jltX dst src off) s (jump64 .lt dst (.x src) off)

/-- R230 `jlt32_k`: taken if `u(A) < u(B)`, 32 bits, immediate source. -/
def execJlt32K (dst : Reg) (imm : Imm) (off : Off) (s : State) : Host.Outcome State Fault Refusal :=
  attempt (.jlt32K dst imm off) s (jump32 .lt dst (.k imm) off)

/-- R231 `jlt32_x`: taken if `u(A) < u(B)`, 32 bits, register source. -/
def execJlt32X (dst src : Reg) (off : Off) (s : State) : Host.Outcome State Fault Refusal :=
  attempt (.jlt32X dst src off) s (jump32 .lt dst (.x src) off)

/-- R232 `jle_k`: taken if `u(A) <= u(B)`, 64 bits, immediate source. -/
def execJleK (dst : Reg) (imm : Imm) (off : Off) (s : State) : Host.Outcome State Fault Refusal :=
  attempt (.jleK dst imm off) s (jump64 .le dst (.k imm) off)

/-- R233 `jle_x`: taken if `u(A) <= u(B)`, 64 bits, register source. -/
def execJleX (dst src : Reg) (off : Off) (s : State) : Host.Outcome State Fault Refusal :=
  attempt (.jleX dst src off) s (jump64 .le dst (.x src) off)

/-- R234 `jle32_k`: taken if `u(A) <= u(B)`, 32 bits, immediate source. -/
def execJle32K (dst : Reg) (imm : Imm) (off : Off) (s : State) : Host.Outcome State Fault Refusal :=
  attempt (.jle32K dst imm off) s (jump32 .le dst (.k imm) off)

/-- R235 `jle32_x`: taken if `u(A) <= u(B)`, 32 bits, register source. -/
def execJle32X (dst src : Reg) (off : Off) (s : State) : Host.Outcome State Fault Refusal :=
  attempt (.jle32X dst src off) s (jump32 .le dst (.x src) off)

/-- R236 `jslt_k`: taken if `s(A) < s(B)`, 64 bits, immediate source. -/
def execJsltK (dst : Reg) (imm : Imm) (off : Off) (s : State) : Host.Outcome State Fault Refusal :=
  attempt (.jsltK dst imm off) s (jump64 .slt dst (.k imm) off)

/-- R237 `jslt_x`: taken if `s(A) < s(B)`, 64 bits, register source. -/
def execJsltX (dst src : Reg) (off : Off) (s : State) : Host.Outcome State Fault Refusal :=
  attempt (.jsltX dst src off) s (jump64 .slt dst (.x src) off)

/-- R238 `jslt32_k`: taken if `s(A) < s(B)`, 32 bits, immediate source. -/
def execJslt32K (dst : Reg) (imm : Imm) (off : Off) (s : State) : Host.Outcome State Fault Refusal :=
  attempt (.jslt32K dst imm off) s (jump32 .slt dst (.k imm) off)

/-- R239 `jslt32_x`: taken if `s(A) < s(B)`, 32 bits, register source. -/
def execJslt32X (dst src : Reg) (off : Off) (s : State) : Host.Outcome State Fault Refusal :=
  attempt (.jslt32X dst src off) s (jump32 .slt dst (.x src) off)

/-- R240 `jsle_k`: taken if `s(A) <= s(B)`, 64 bits, immediate source. -/
def execJsleK (dst : Reg) (imm : Imm) (off : Off) (s : State) : Host.Outcome State Fault Refusal :=
  attempt (.jsleK dst imm off) s (jump64 .sle dst (.k imm) off)

/-- R241 `jsle_x`: taken if `s(A) <= s(B)`, 64 bits, register source. -/
def execJsleX (dst src : Reg) (off : Off) (s : State) : Host.Outcome State Fault Refusal :=
  attempt (.jsleX dst src off) s (jump64 .sle dst (.x src) off)

/-- R242 `jsle32_k`: taken if `s(A) <= s(B)`, 32 bits, immediate source. -/
def execJsle32K (dst : Reg) (imm : Imm) (off : Off) (s : State) : Host.Outcome State Fault Refusal :=
  attempt (.jsle32K dst imm off) s (jump32 .sle dst (.k imm) off)

/-- R243 `jsle32_x`: taken if `s(A) <= s(B)`, 32 bits, register source. -/
def execJsle32X (dst src : Reg) (off : Off) (s : State) : Host.Outcome State Fault Refusal :=
  attempt (.jsle32X dst src off) s (jump32 .sle dst (.x src) off)

end Sys2Proof.Machine
end

