-- ==== Sys2Proof/Machine/LoadStore.lean ====
section
/-! DEFINITION. The regular loads and stores (`43_load_store.md` R250 to R265). -/

namespace Sys2Proof.Machine

/-- `x[dst_reg] <- zext_64(MemRead(x[src_reg] +_64 sext_64(offset), n))` (R250, R251). -/
def loadReg (size : Size) (dst src : Reg) (off : Off) (s : State) : Except Fault State := do
  let base ← readReg s src
  let (v, t) ← memRead s (effAddr base off) size
  return advance (writeReg t dst v) 1

/-- `MemWrite(x[dst_reg] +_64 sext_64(offset), n, trunc_8n(sext_64(imm)))` (R250, R252). -/
def storeImm (size : Size) (dst : Reg) (off : Off) (imm : Imm) (s : State) : Except Fault State := do
  let base ← readReg s dst
  let t ← memWrite s (effAddr base off) size (sextImm imm)
  return advance t 1

/-- `MemWrite(x[dst_reg] +_64 sext_64(offset), n, trunc_8n(x[src_reg]))`: the base is read first (R250, R252, R253). -/
def storeReg (size : Size) (dst src : Reg) (off : Off) (s : State) : Except Fault State := do
  let base ← readReg s dst
  let v ← readReg s src
  let t ← memWrite s (effAddr base off) size v
  return advance t 1

/-- R254 `ldxw`: load, 4 bytes. -/
def execLdxw (dst src : Reg) (off : Off) (s : State) : Host.Outcome State Fault Refusal :=
  attempt (.ldxw dst src off) s (loadReg .w dst src off)

/-- R255 `ldxh`: load, 2 bytes. -/
def execLdxh (dst src : Reg) (off : Off) (s : State) : Host.Outcome State Fault Refusal :=
  attempt (.ldxh dst src off) s (loadReg .h dst src off)

/-- R256 `ldxb`: load, 1 byte. -/
def execLdxb (dst src : Reg) (off : Off) (s : State) : Host.Outcome State Fault Refusal :=
  attempt (.ldxb dst src off) s (loadReg .b dst src off)

/-- R257 `ldxdw`: load, 8 bytes. -/
def execLdxdw (dst src : Reg) (off : Off) (s : State) : Host.Outcome State Fault Refusal :=
  attempt (.ldxdw dst src off) s (loadReg .dw dst src off)

/-- R258 `stw`: store of an immediate, 4 bytes. -/
def execStw (dst : Reg) (off : Off) (imm : Imm) (s : State) : Host.Outcome State Fault Refusal :=
  attempt (.stw dst off imm) s (storeImm .w dst off imm)

/-- R259 `sth`: store of an immediate, 2 bytes. -/
def execSth (dst : Reg) (off : Off) (imm : Imm) (s : State) : Host.Outcome State Fault Refusal :=
  attempt (.sth dst off imm) s (storeImm .h dst off imm)

/-- R260 `stb`: store of an immediate, 1 byte. -/
def execStb (dst : Reg) (off : Off) (imm : Imm) (s : State) : Host.Outcome State Fault Refusal :=
  attempt (.stb dst off imm) s (storeImm .b dst off imm)

/-- R261 `stdw`: store of an immediate, 8 bytes. -/
def execStdw (dst : Reg) (off : Off) (imm : Imm) (s : State) : Host.Outcome State Fault Refusal :=
  attempt (.stdw dst off imm) s (storeImm .dw dst off imm)

/-- R262 `stxw`: store of a register, 4 bytes. -/
def execStxw (dst src : Reg) (off : Off) (s : State) : Host.Outcome State Fault Refusal :=
  attempt (.stxw dst src off) s (storeReg .w dst src off)

/-- R263 `stxh`: store of a register, 2 bytes. -/
def execStxh (dst src : Reg) (off : Off) (s : State) : Host.Outcome State Fault Refusal :=
  attempt (.stxh dst src off) s (storeReg .h dst src off)

/-- R264 `stxb`: store of a register, 1 byte. -/
def execStxb (dst src : Reg) (off : Off) (s : State) : Host.Outcome State Fault Refusal :=
  attempt (.stxb dst src off) s (storeReg .b dst src off)

/-- R265 `stxdw`: store of a register, 8 bytes. -/
def execStxdw (dst src : Reg) (off : Off) (s : State) : Host.Outcome State Fault Refusal :=
  attempt (.stxdw dst src off) s (storeReg .dw dst src off)

end Sys2Proof.Machine
end

