-- ==== Sys2Proof/Machine/Packet.lean ====
section
/-! DEFINITION. The legacy packet loads (`46_legacy_packet.md` R305 to R317). -/

namespace Sys2Proof.Machine

/-- The end of a legacy load once its offset is known (R306 to R308, R311): `PacketContext`; beyond the boundary the
outcome `Abort`, with nothing else changed (R334); else R0 receives the bytes, the first the most significant, and
R1 to R5 are left `novalue`. -/
def packetLoad (size : Size) (x6 : Word) (o : Int) (s : State) : Except Fault State := do
  let p ← packetOf s x6
  match packetBytes p o size.bytes with
  | none => return { s with outcome := .abort }
  | some bs => return advance (clobberArgs (writeReg s .r0 (joinBE bs))) 1

/-- `BPF_ABS`: the offset is `s_32(imm)` (R310). -/
def loadAbs (size : Size) (imm : Imm) (s : State) : Except Fault State := do
  let x6 ← readReg s .r6
  packetLoad size x6 imm.toInt s

/-- `BPF_IND`: the offset is `s_64(x[src_reg] +_64 sext_64(imm))`; R6 is read before the source register (R310, R323). -/
def loadInd (size : Size) (src : Reg) (imm : Imm) (s : State) : Except Fault State := do
  let x6 ← readReg s .r6
  let v ← readReg s src
  packetLoad size x6 (v + sextImm imm).toInt s

/-- R312 `ldabsw`: 4 bytes of the packet. -/
def execLdabsw (imm : Imm) (s : State) : Host.Outcome State Fault Refusal :=
  attempt (.ldabsw imm) s (loadAbs .w imm)

/-- R313 `ldabsh`: 2 bytes of the packet. -/
def execLdabsh (imm : Imm) (s : State) : Host.Outcome State Fault Refusal :=
  attempt (.ldabsh imm) s (loadAbs .h imm)

/-- R314 `ldabsb`: 1 byte of the packet. -/
def execLdabsb (imm : Imm) (s : State) : Host.Outcome State Fault Refusal :=
  attempt (.ldabsb imm) s (loadAbs .b imm)

/-- R315 `ldindw`: 4 bytes of the packet. -/
def execLdindw (src : Reg) (imm : Imm) (s : State) : Host.Outcome State Fault Refusal :=
  attempt (.ldindw src imm) s (loadInd .w src imm)

/-- R316 `ldindh`: 2 bytes of the packet. -/
def execLdindh (src : Reg) (imm : Imm) (s : State) : Host.Outcome State Fault Refusal :=
  attempt (.ldindh src imm) s (loadInd .h src imm)

/-- R317 `ldindb`: 1 byte of the packet. -/
def execLdindb (src : Reg) (imm : Imm) (s : State) : Host.Outcome State Fault Refusal :=
  attempt (.ldindb src imm) s (loadInd .b src imm)

end Sys2Proof.Machine
end

