-- ==== Sys2Proof/Machine/Fetch.lean ====
section
/-! DEFINITION. Fetch and decode (`30_encoding.md` R90), and the check of a whole program that R90 allows a host to make
before a run. -/

namespace Sys2Proof.Machine

/-- The walk of R90 step 1 over slots, by instruction lengths from the first: whether the slot after them is the second
slot of a wide instruction. `prev` says it of the slot the walk stands at: a second slot is not looked at. -/
def endsInWide (prev : Bool) : List Word → Bool
  | [] => prev
  | w :: ws => endsInWide (!prev && isWide w) ws

/-- Slot `k` is the second slot of a wide instruction (R90 step 1, R303). -/
def isSecondSlot (program : List Word) (k : Nat) : Bool := endsInWide false (program.take k)

/-- Fetch and decode of slot `k` of a program, once `k` is known to start an instruction (R90 steps 2 to 5). -/
def decodeAt (p : Params) (program : List Word) (k : Nat) : Except IllFormed Instr :=
  decode p (program.getD k 0) program[k + 1]?

/-- Fetch and decode of the instruction at `pc` (R90): `PcOutOfRange`, then `IllegalInstruction`. -/
def fetch (s : State) : Except Fault Instr :=
  if s.pc < 0 ∨ (s.program.length : Int) ≤ s.pc ∨ isSecondSlot s.program s.pc.toNat = true then
    .error (.pcOutOfRange s.pc)
  else
    match decodeAt s.params s.program s.pc.toNat with
    | .ok i => .ok i
    | .error r => .error (.illegalInstruction r (slotAtPc s))

/-- Checks 3 to 5 of R90 made once for the whole program: every slot that starts an instruction holds a well-formed
one. -/
def loadCheck (p : Params) (program : List Word) : Bool :=
  (List.range program.length).all (fun k =>
    isSecondSlot program k ||
      match decodeAt p program k with
      | .ok _ => true
      | .error _ => false)

/-- The slots before slot `n`, filled up with zeros where the program has fewer; where they would make slot `n` a second
slot, the last of them is zero. -/
def slotsBefore (program : List Word) (n : Nat) : List Word :=
  let q := program.take n ++ List.replicate (n - program.length) 0
  if endsInWide false q then q.dropLast ++ [0] else q

/-- The program with these two slots at `n` and `n + 1`, where a fetch at `n` finds them. -/
def placeSlots (program : List Word) (n : Nat) (w0 w1 : Word) : List Word :=
  slotsBefore program n ++ w0 :: w1 :: program.drop (n + 2)

end Sys2Proof.Machine
end

