-- ==== Sys2Proof/Machine/Step.lean ====
section
/-! DEFINITION. One step of the machine (`00_scope.md` R14). -/

namespace Sys2Proof.Machine

/-- A step (R14). While the run goes on: fetch, decode, execute; a fault of the fetch or the decoder is taken like any
other (R321). Once the run has ended nothing more is executed (R320): after `Exit` and `Abort` the state stays as it is,
after a fault there is no next state and the host learns the reason (R355, log entry 9). -/
def step (s : State) : Host.Outcome State Fault Refusal :=
  match s.outcome with
  | .running =>
    match fetch s with
    | .ok i => exec i s
    | .error f => .next (raise s f)
  | .exit _ => .next s
  | .abort => .next s
  | .fault r => .fault r

/-- The state with the slots of the number `w`, cut to `nbits`, where the next step fetches: at `pc` (at 0 where `pc` is
negative), with the run going on (log entry 8). -/
def State.withFetchWord (s : State) (nbits w : Nat) : State :=
  { s with
    pc := s.pc.toNat
    program := placeSlots s.program s.pc.toNat (tableSlot nbits w 0) (tableSlot nbits w 1)
    outcome := .running }

end Sys2Proof.Machine
end

