-- ==== Sys2Proof/Machine/Launch.lean ====
section
/-! DEFINITION. The launch of a run: what the host supplies (`70_reset_and_hazards.md` R351) and the state it builds
(`10_state.md` R35, R350). -/

namespace Sys2Proof.Machine

/-- What the host supplies (R351): the program, the parameters of R6, the stack region's place and size, the other
regions with the bytes they hold at launch, `HELPERS`, `PACKET`, `ENTRY_ARGS` and `ABORT_RESULT`. -/
structure LaunchConfig where
  params : Params
  program : List Word
  stackBase : Nat
  stackSize : Nat
  otherRegions : List Region
  content : Memory
  helpers : List Helper
  packet : Option Packet
  arg1 : Option Word
  arg2 : Option Word
  arg3 : Option Word
  arg4 : Option Word
  arg5 : Option Word
  abortResult : Option Word
deriving DecidableEq, Repr

/-- The registers at launch (R35). -/
def launchRegs (c : LaunchConfig) : Regs :=
  { r0 := none
    r1 := c.arg1
    r2 := c.arg2
    r3 := c.arg3
    r4 := c.arg4
    r5 := c.arg5
    r6 := none
    r7 := none
    r8 := none
    r9 := none
    r10 := some (framePointer c.stackBase c.stackSize) }

/-- The launch state (R35, R350): registers as R35 says, `pc` 0, `outcome` `Running`, the stack region with every byte
`nobyte`, the other regions as the host gives them. -/
def launch (c : LaunchConfig) : State :=
  { regs := launchRegs c
    pc := 0
    mem := c.content
    outcome := .running
    program := c.program
    params := c.params
    regions := stackRegion c.stackBase c.stackSize :: c.otherRegions
    helpers := c.helpers
    packet := c.packet
    abortResult := c.abortResult
    oracleTick := 0 }

/-- The regions lie below 2^64 and are pairwise disjoint (R43). -/
def regionsOk (regions : List Region) : Bool :=
  regions.all (fun r => decide (r.base + r.length ≤ 2 ^ 64)) &&
    decide (regions.Pairwise (fun r q => r.base + r.length ≤ q.base ∨ q.base + q.length ≤ r.base))

/-- A byte of a region. -/
def inRegion (r : Region) (a : Nat) : Bool := decide (r.base ≤ a) && decide (a < r.base + r.length)

/-- Every byte that memory holds lies in some region (R34, R43). -/
def cellsInRegions (regions : List Region) (m : Memory) : Bool :=
  m.all (fun c => regions.any (fun r => inRegion r c.1))

/-- What the spec asks of the host's choices (R6, R43, R44, R350): at least one slot, disjoint regions below 2^64, a stack
of a multiple of 8 bytes, contents of the other regions only, in canonical form. -/
def LaunchConfig.ok (c : LaunchConfig) : Bool :=
  decide (1 ≤ c.program.length) &&
  regionsOk (stackRegion c.stackBase c.stackSize :: c.otherRegions) &&
  decide (c.stackSize % 8 = 0) &&
  c.content.wf && cellsInRegions c.otherRegions c.content

end Sys2Proof.Machine
end

