-- ==== Sys2Proof/Safety.lean ====
section
/-! DEFINITION. What the host receives at the end of a run (`70_reset_and_hazards.md` R355), the invariant of the machine,
and what counts as a safe run. -/

namespace Sys2Proof.Machine

/-- What the host receives (R355). -/
inductive HostResult where
  /-- `Exit(v)`: the 64-bit value. -/
  | value (v : Word)
  /-- `Abort`: `ABORT_RESULT`, a value or none. -/
  | aborted (result : Option Word)
  /-- `Fault(reason)`: the reason. -/
  | faulted (reason : Fault)
deriving DecidableEq, Repr

/-- What the host receives of a state, once `outcome` has left `Running` (R355). -/
def hostResult (s : State) : Option HostResult :=
  match s.outcome with
  | .running => none
  | .exit v => some (.value v)
  | .abort => some (.aborted s.abortResult)
  | .fault r => some (.faulted r)

/-- The invariant of the machine: memory in canonical form, every byte of it in a region, the regions as R43 says, and a
value in the frame pointer (R23, R35). -/
structure State.Inv (s : State) : Prop where
  memWf : s.mem.wf = true
  cells : cellsInRegions s.regions s.mem = true
  regions : regionsOk s.regions = true
  framePtr : s.regs.r10.isSome = true

/-- What no instruction changes: the program (R56), the parameters of the run (R34, R327), and R10 (R23). -/
structure SameSetting (s t : State) : Prop where
  program : t.program = s.program
  params : t.params = s.params
  regions : t.regions = s.regions
  helpers : t.helpers = s.helpers
  packet : t.packet = s.packet
  abortResult : t.abortResult = s.abortResult
  framePtr : t.regs.r10 = s.regs.r10

/-- A state whose run has not ended in a fault. -/
def NotFaulted (s : State) : Prop := ∀ r, s.outcome ≠ .fault r

/-- `t` is reached from `s` in `k` steps. -/
def Reaches : Nat → State → State → Prop
  | 0, s, t => s = t
  | k + 1, s, t => ∃ u, step s = .next u ∧ Reaches k u t

/-- A safe run: no state reached has faulted (R321: a claim about a program is normally proved by showing this). -/
def SafeFrom (s : State) : Prop := ∀ k t, Reaches k s t → NotFaulted t

end Sys2Proof.Machine
end

