-- ==== Sys2Proof/Rules.lean ====
section
/-! DEFINITION. The shapes in which the statements say the rules of the instructions: what decodes to an instruction and
what is refused, what it does with readable operands, and what it raises where an operand holds `novalue`. The values
are said in arithmetic on numbers and on bits, not by the operations of the meanings. -/

namespace Sys2Proof.Machine

/-! ### Ends of an instruction -/

/-- `x[dst] <- v` and the next slot; nothing else changes. -/
def put (s : State) (dst : Reg) (v : Word) : State := { s with regs := s.regs.set dst (some v), pc := s.pc + 1 }

/-- R0 receives `v`, R1 to R5 are left `novalue`, the next slot; nothing else changes (R24, R307). -/
def putClobber (s : State) (v : Word) : State :=
  { s with
    regs := { s.regs with r0 := some v, r1 := none, r2 := none, r3 := none, r4 := none, r5 := none }
    pc := s.pc + 1 }

/-- `pc <- pc + 1 + s_16(offset)`; nothing else changes. -/
def goTo (s : State) (off : Off) : State := { s with pc := s.pc + 1 + off.toInt }

/-- `pc <- pc + 1`; nothing else changes. -/
def goOn (s : State) : State := { s with pc := s.pc + 1 }

/-! ### Encodings -/

/-- Every slot with this opcode and one of these faults of encoding is refused at decode (R91). -/
def Refuses (op : BitVec 8) (bad : Word → Prop) : Prop :=
  ∀ p w second, opcodeField w = op → bad w → ∃ r, decode p w second = .error r

/-- Format `ALU_K` with R10 as no destination (R86). -/
def CodedAluK (op : BitVec 8) (mk : Reg → Imm → Instr) : Prop :=
  (∀ p second dst imm, dst ≠ .r10 → decode p (packSlot op dst.field 0 0 imm) second = .ok (mk dst imm)) ∧
  Refuses op (fun w => srcField w ≠ 0 ∨ offField w ≠ 0 ∨ 10 ≤ (dstField w).toNat)

/-- Format `ALU_X`. -/
def CodedAluX (op : BitVec 8) (mk : Reg → Reg → Instr) : Prop :=
  (∀ p second dst src, dst ≠ .r10 → decode p (packSlot op dst.field src.field 0 0) second = .ok (mk dst src)) ∧
  Refuses op (fun w => offField w ≠ 0 ∨ immField w ≠ 0 ∨ 10 ≤ (dstField w).toNat ∨ 10 < (srcField w).toNat)

/-- Format `END` for one width. -/
def CodedEnd (op : BitVec 8) (imm : Imm) (mk : Reg → Instr) : Prop :=
  (∀ p second dst, dst ≠ .r10 → decode p (packSlot op dst.field 0 0 imm) second = .ok (mk dst)) ∧
  Refuses op (fun w => srcField w ≠ 0 ∨ offField w ≠ 0 ∨ 10 ≤ (dstField w).toNat)

/-- Format `JCC_K`. -/
def CodedJccK (op : BitVec 8) (mk : Reg → Imm → Off → Instr) : Prop :=
  (∀ p second dst imm off, decode p (packSlot op dst.field 0 off imm) second = .ok (mk dst imm off)) ∧
  Refuses op (fun w => srcField w ≠ 0 ∨ 10 < (dstField w).toNat)

/-- Format `JCC_X`. -/
def CodedJccX (op : BitVec 8) (mk : Reg → Reg → Off → Instr) : Prop :=
  (∀ p second dst src off, decode p (packSlot op dst.field src.field off 0) second = .ok (mk dst src off)) ∧
  Refuses op (fun w => immField w ≠ 0 ∨ 10 < (dstField w).toNat ∨ 10 < (srcField w).toNat)

/-- Format `LDX`. -/
def CodedLdx (op : BitVec 8) (mk : Reg → Reg → Off → Instr) : Prop :=
  (∀ p second dst src off, dst ≠ .r10 →
    decode p (packSlot op dst.field src.field off 0) second = .ok (mk dst src off)) ∧
  Refuses op (fun w => immField w ≠ 0 ∨ 10 ≤ (dstField w).toNat ∨ 10 < (srcField w).toNat)

/-- Format `ST`. -/
def CodedSt (op : BitVec 8) (mk : Reg → Off → Imm → Instr) : Prop :=
  (∀ p second dst off imm, decode p (packSlot op dst.field 0 off imm) second = .ok (mk dst off imm)) ∧
  Refuses op (fun w => srcField w ≠ 0 ∨ 10 < (dstField w).toNat)

/-- Format `STX`. -/
def CodedStx (op : BitVec 8) (mk : Reg → Reg → Off → Instr) : Prop := CodedJccX op mk

/-- Format `ATOMIC` for one operation: admitted under `v3`, and under `v1` where the operation is tagged `v1`; where it
writes its source register, that is not R10 (R271, R275). -/
def CodedAtomic (op : BitVec 8) (imm : Imm) (mk : Reg → Reg → Off → Instr) (tag : IsaVersion) (writesSrc : Bool) :
    Prop :=
  (∀ p second dst src off, (tag = .v1 ∨ p.isaVersion = .v3) → (writesSrc = true → src ≠ .r10) →
    decode p (packSlot op dst.field src.field off imm) second = .ok (mk dst src off)) ∧
  (∀ p second (dst src : Reg) off, tag = .v3 → p.isaVersion = .v1 →
    ∃ r, decode p (packSlot op dst.field src.field off imm) second = .error r) ∧
  Refuses op (fun w => immField w = imm ∧
    (10 < (dstField w).toNat ∨ 10 < (srcField w).toNat ∨ (writesSrc = true ∧ 10 ≤ (srcField w).toNat)))

/-- The 134 reserved opcode bytes as R93 lists them, by their three high bits. -/
def reservedOpcodes : List (BitVec 8) :=
  [0x00, 0x01, 0x02, 0x03, 0x06, 0x08, 0x09, 0x0a, 0x0b, 0x0d, 0x0e, 0x10, 0x11, 0x12, 0x13, 0x19, 0x1a, 0x1b] ++
  [0x21, 0x22, 0x23, 0x29, 0x2a, 0x2b, 0x31, 0x32, 0x33, 0x38, 0x39, 0x3a, 0x3b] ++
  [0x41, 0x42, 0x43, 0x49, 0x4a, 0x4b, 0x51, 0x52, 0x53, 0x58, 0x59, 0x5a, 0x5b] ++
  [0x60, 0x68, 0x70, 0x78] ++
  [0x80, 0x81, 0x82, 0x83, 0x86, 0x88, 0x89, 0x8a, 0x8b, 0x8d, 0x8e, 0x90, 0x91, 0x92, 0x93, 0x96, 0x98, 0x99,
   0x9a, 0x9b, 0x9d, 0x9e] ++
  [0xa0, 0xa1, 0xa2, 0xa3, 0xa8, 0xa9, 0xaa, 0xab, 0xb0, 0xb1, 0xb2, 0xb3, 0xb8, 0xb9, 0xba, 0xbb] ++
  [0xc0, 0xc1, 0xc2, 0xc8, 0xc9, 0xca, 0xcb, 0xd0, 0xd1, 0xd2, 0xd3, 0xd7, 0xd8, 0xd9, 0xda, 0xdf] ++
  [0xe0, 0xe1, 0xe2, 0xe3, 0xe4, 0xe5, 0xe6, 0xe7, 0xe8, 0xe9, 0xea, 0xeb, 0xec, 0xed, 0xee, 0xef, 0xf0, 0xf1,
   0xf2, 0xf3, 0xf4, 0xf5, 0xf6, 0xf7, 0xf8, 0xf9, 0xfa, 0xfb, 0xfc, 0xfd, 0xfe, 0xff]

/-! ### Arithmetic -/

/-- With a readable destination and 64-bit operands `a` and `sext_64(imm)` for which `pre` holds, the end is `eff`. -/
def EndsK64 (mk : Reg → Imm → Instr) (pre : Params → Word → Word → Prop) (eff : State → Reg → Word → Word → State) :
    Prop :=
  ∀ s dst imm a, dst ≠ .r10 → s.regs.get dst = some a → pre s.params a (imm.signExtend 64) →
    exec (mk dst imm) s = .next (eff s dst a (imm.signExtend 64))

/-- The same with the source register as `b`; it may be the destination (R119). -/
def EndsX64 (mk : Reg → Reg → Instr) (pre : Params → Word → Word → Prop) (eff : State → Reg → Word → Word → State) :
    Prop :=
  ∀ s dst src a b, dst ≠ .r10 → s.regs.get dst = some a → s.regs.get src = some b → pre s.params a b →
    exec (mk dst src) s = .next (eff s dst a b)

/-- The same with 32-bit operands `x[dst][31:0]` and `imm`. -/
def EndsK32 (mk : Reg → Imm → Instr) (pre : Params → BitVec 32 → BitVec 32 → Prop)
    (eff : State → Reg → BitVec 32 → BitVec 32 → State) : Prop :=
  ∀ s dst imm (a : Word), dst ≠ .r10 → s.regs.get dst = some a → pre s.params (a.extractLsb' 0 32) imm →
    exec (mk dst imm) s = .next (eff s dst (a.extractLsb' 0 32) imm)

/-- The same with 32-bit operands `x[dst][31:0]` and `x[src][31:0]`. -/
def EndsX32 (mk : Reg → Reg → Instr) (pre : Params → BitVec 32 → BitVec 32 → Prop)
    (eff : State → Reg → BitVec 32 → BitVec 32 → State) : Prop :=
  ∀ s dst src (a b : Word), dst ≠ .r10 → s.regs.get dst = some a → s.regs.get src = some b →
    pre s.params (a.extractLsb' 0 32) (b.extractLsb' 0 32) →
    exec (mk dst src) s = .next (eff s dst (a.extractLsb' 0 32) (b.extractLsb' 0 32))

/-- A destination that holds `novalue` raises `UninitRegister` (R118). -/
def UnreadK (mk : Reg → Imm → Instr) : Prop :=
  ∀ s dst imm, dst ≠ .r10 → s.regs.get dst = none → exec (mk dst imm) s = .next (raise s (.uninitRegister dst))

/-- The destination is examined first, then the source (R118). -/
def UnreadX (mk : Reg → Reg → Instr) : Prop :=
  (∀ s dst src, dst ≠ .r10 → s.regs.get dst = none → exec (mk dst src) s = .next (raise s (.uninitRegister dst))) ∧
  (∀ s dst src a, dst ≠ .r10 → s.regs.get dst = some a → s.regs.get src = none →
    exec (mk dst src) s = .next (raise s (.uninitRegister src)))

/-- No condition on the operands. -/
def Always {w : Nat} : Params → BitVec w → BitVec w → Prop := fun _ _ _ => True

/-- `x[dst] <- f a b`. -/
def puts (f : Word → Word → Word) (s : State) (dst : Reg) (a b : Word) : State := put s dst (f a b)

/-- `x[dst] <- zext_64(f a b)` (R112). -/
def putsLow (f : BitVec 32 → BitVec 32 → BitVec 32) (s : State) (dst : Reg) (a b : BitVec 32) : State :=
  put s dst (BitVec.ofNat 64 (f a b).toNat)

/-- The instruction raises `e`. -/
def fails {w : Nat} (e : Fault) (s : State) (_ : Reg) (_ _ : BitVec w) : State := raise s e

/-- An operation on `A` and `B` of every width, one that no operands make fault. -/
abbrev Total := {w : Nat} → BitVec w → BitVec w → BitVec w

/-- The four forms of an operation that no operands make fault: `k32` and `x32` at 32 bits, `k64` and `x64` at 64, with
the opcode of the first; the others follow by the source bit 0x08 and the class (R77, R78). -/
def TotalOp (k32 x32 k64 x64 : BitVec 8) (mk32 : Reg → Imm → Instr) (mx32 : Reg → Reg → Instr)
    (mk64 : Reg → Imm → Instr) (mx64 : Reg → Reg → Instr) (f : Total) : Prop :=
  (CodedAluK k32 mk32 ∧ EndsK32 mk32 Always (putsLow f) ∧ UnreadK mk32) ∧
  (CodedAluX x32 mx32 ∧ EndsX32 mx32 Always (putsLow f) ∧ UnreadX mx32) ∧
  (CodedAluK k64 mk64 ∧ EndsK64 mk64 Always (puts f) ∧ UnreadK mk64) ∧
  (CodedAluX x64 mx64 ∧ EndsX64 mx64 Always (puts f) ∧ UnreadX mx64)

/-- The four forms of an operation that is defined by `f` where `ok` holds of the operands; where it does not, it raises
`e` under the one value of its parameter (`faulty`) and is defined by `g` under the other. -/
def PartialOp (k32 x32 k64 x64 : BitVec 8) (mk32 : Reg → Imm → Instr) (mx32 : Reg → Reg → Instr)
    (mk64 : Reg → Imm → Instr) (mx64 : Reg → Reg → Instr) (ok : {w : Nat} → BitVec w → Prop) (f : Total)
    (faulty : Params → Prop) (e : Fault) (g : Total) : Prop :=
  (CodedAluK k32 mk32 ∧ UnreadK mk32 ∧ EndsK32 mk32 (fun _ _ b => ok b) (putsLow f) ∧
    EndsK32 mk32 (fun p _ b => ¬ ok b ∧ faulty p) (fails e) ∧
    EndsK32 mk32 (fun p _ b => ¬ ok b ∧ ¬ faulty p) (putsLow g)) ∧
  (CodedAluX x32 mx32 ∧ UnreadX mx32 ∧ EndsX32 mx32 (fun _ _ b => ok b) (putsLow f) ∧
    EndsX32 mx32 (fun p _ b => ¬ ok b ∧ faulty p) (fails e) ∧
    EndsX32 mx32 (fun p _ b => ¬ ok b ∧ ¬ faulty p) (putsLow g)) ∧
  (CodedAluK k64 mk64 ∧ UnreadK mk64 ∧ EndsK64 mk64 (fun _ _ b => ok b) (puts f) ∧
    EndsK64 mk64 (fun p _ b => ¬ ok b ∧ faulty p) (fails e) ∧
    EndsK64 mk64 (fun p _ b => ¬ ok b ∧ ¬ faulty p) (puts g)) ∧
  (CodedAluX x64 mx64 ∧ UnreadX mx64 ∧ EndsX64 mx64 (fun _ _ b => ok b) (puts f) ∧
    EndsX64 mx64 (fun p _ b => ¬ ok b ∧ faulty p) (fails e) ∧
    EndsX64 mx64 (fun p _ b => ¬ ok b ∧ ¬ faulty p) (puts g))

/-! ### Jumps -/

/-- A conditional jump of class `BPF_JMP` with an immediate: coding, the two ends, and the fault, taken or not
(R200 and its siblings). -/
def JumpK64 (op : BitVec 8) (mk : Reg → Imm → Off → Instr) (c : Word → Word → Prop) : Prop :=
  CodedJccK op mk ∧
  (∀ s dst imm off a, s.regs.get dst = some a →
    (c a (imm.signExtend 64) → exec (mk dst imm off) s = .next (goTo s off)) ∧
    (¬ c a (imm.signExtend 64) → exec (mk dst imm off) s = .next (goOn s))) ∧
  (∀ s dst imm off, s.regs.get dst = none → exec (mk dst imm off) s = .next (raise s (.uninitRegister dst)))

/-- The same of class `BPF_JMP32`: the low halves are compared (R194). -/
def JumpK32 (op : BitVec 8) (mk : Reg → Imm → Off → Instr) (c : BitVec 32 → BitVec 32 → Prop) : Prop :=
  CodedJccK op mk ∧
  (∀ s dst imm off (a : Word), s.regs.get dst = some a →
    (c (a.extractLsb' 0 32) imm → exec (mk dst imm off) s = .next (goTo s off)) ∧
    (¬ c (a.extractLsb' 0 32) imm → exec (mk dst imm off) s = .next (goOn s))) ∧
  (∀ s dst imm off, s.regs.get dst = none → exec (mk dst imm off) s = .next (raise s (.uninitRegister dst)))

/-- What a conditional jump with a register source raises: the destination is examined first. -/
def UnreadJump (mk : Reg → Reg → Off → Instr) : Prop :=
  (∀ s dst src off, s.regs.get dst = none → exec (mk dst src off) s = .next (raise s (.uninitRegister dst))) ∧
  (∀ s dst src off a, s.regs.get dst = some a → s.regs.get src = none →
    exec (mk dst src off) s = .next (raise s (.uninitRegister src)))

/-- A conditional jump of class `BPF_JMP` with a register source. -/
def JumpX64 (op : BitVec 8) (mk : Reg → Reg → Off → Instr) (c : Word → Word → Prop) : Prop :=
  CodedJccX op mk ∧
  (∀ s dst src off a b, s.regs.get dst = some a → s.regs.get src = some b →
    (c a b → exec (mk dst src off) s = .next (goTo s off)) ∧
    (¬ c a b → exec (mk dst src off) s = .next (goOn s))) ∧
  UnreadJump mk

/-- The same of class `BPF_JMP32`. -/
def JumpX32 (op : BitVec 8) (mk : Reg → Reg → Off → Instr) (c : BitVec 32 → BitVec 32 → Prop) : Prop :=
  CodedJccX op mk ∧
  (∀ s dst src off (a b : Word), s.regs.get dst = some a → s.regs.get src = some b →
    (c (a.extractLsb' 0 32) (b.extractLsb' 0 32) → exec (mk dst src off) s = .next (goTo s off)) ∧
    (¬ c (a.extractLsb' 0 32) (b.extractLsb' 0 32) → exec (mk dst src off) s = .next (goOn s))) ∧
  UnreadJump mk

/-! ### Loads and stores -/

/-- A load of `z` (R254 to R257): the value that `MemRead` answers, zero-extended, goes to the destination; what
`MemRead` raises is raised. -/
def LoadRule (op : BitVec 8) (mk : Reg → Reg → Off → Instr) (z : Size) : Prop :=
  CodedLdx op mk ∧
  (∀ s dst src off base v t, dst ≠ .r10 → s.regs.get src = some base →
    memRead s (base + off.signExtend 64) z = .ok (v, t) →
    exec (mk dst src off) s = .next (put t dst v) ∧ v.toNat < 2 ^ (8 * z.bytes)) ∧
  (∀ s dst src off base f, dst ≠ .r10 → s.regs.get src = some base →
    memRead s (base + off.signExtend 64) z = .error f → exec (mk dst src off) s = .next (raise s f)) ∧
  (∀ s dst src off, dst ≠ .r10 → s.regs.get src = none →
    exec (mk dst src off) s = .next (raise s (.uninitRegister src)))

/-- A store of an immediate of size `z` (R258 to R261): `MemWrite` of the sign-extended immediate. -/
def StoreImmRule (op : BitVec 8) (mk : Reg → Off → Imm → Instr) (z : Size) : Prop :=
  CodedSt op mk ∧
  (∀ s dst off imm base t, s.regs.get dst = some base →
    memWrite s (base + off.signExtend 64) z (imm.signExtend 64) = .ok t →
    exec (mk dst off imm) s = .next (goOn t)) ∧
  (∀ s dst off imm base f, s.regs.get dst = some base →
    memWrite s (base + off.signExtend 64) z (imm.signExtend 64) = .error f →
    exec (mk dst off imm) s = .next (raise s f)) ∧
  (∀ s dst off imm, s.regs.get dst = none → exec (mk dst off imm) s = .next (raise s (.uninitRegister dst)))

/-- A store of a register of size `z` (R262 to R265): `MemWrite` of the register; the base is examined first. -/
def StoreRegRule (op : BitVec 8) (mk : Reg → Reg → Off → Instr) (z : Size) : Prop :=
  CodedStx op mk ∧
  (∀ s dst src off base v t, s.regs.get dst = some base → s.regs.get src = some v →
    memWrite s (base + off.signExtend 64) z v = .ok t → exec (mk dst src off) s = .next (goOn t)) ∧
  (∀ s dst src off base v f, s.regs.get dst = some base → s.regs.get src = some v →
    memWrite s (base + off.signExtend 64) z v = .error f → exec (mk dst src off) s = .next (raise s f)) ∧
  UnreadJump mk

/-- The `z` bytes at an address lie inside a region (R41 step 2). -/
def covers (r : Region) (addr : Word) (z : Size) : Prop :=
  r.base ≤ addr.toNat ∧ addr.toNat + z.bytes ≤ r.base + r.length

/-- The byte that an `n`-byte access of the value `v` has at its address plus `i` (R41, R42): of weight `i` on a
little-endian host, of weight `n-1-i` on a big-endian one. -/
def byteAt (e : Endian) (n : Nat) (v : Word) (i : Nat) : Byte :=
  match e with
  | .little => BitVec.ofNat 8 (v.toNat / 2 ^ (8 * i))
  | .big => BitVec.ofNat 8 (v.toNat / 2 ^ (8 * (n - 1 - i)))

/-! ### Atomic operations -/

/-- The value a 32-bit atomic operation stores, zero-extended: `f` of the low halves (R274). -/
def onLow (f : BitVec 32 → BitVec 32 → BitVec 32) (old v : Word) : Word :=
  BitVec.ofNat 64 (f (old.extractLsb' 0 32) (v.extractLsb' 0 32)).toNat

/-- The part of `AtomicRule` after the two registers are read: the update of memory by `upd old v`, the end, the
faults of the update in its order, and the examination of the registers. -/
def AtomicEnds (mk : Reg → Reg → Off → Instr) (z : Size) (tag : IsaVersion) (upd : Word → Word → Word)
    (fetch : Bool) : Prop :=
  (∀ s dst src off base v old t, (fetch = true → src ≠ .r10) → (tag = .v1 ∨ s.params.isaVersion = .v3) →
    s.regs.get dst = some base → s.regs.get src = some v →
    atomicUpdate s (base + off.signExtend 64) z (fun o => upd o v) = .ok (old, t) →
    exec (mk dst src off) s = .next (if fetch then put t src old else goOn t)) ∧
  (∀ s dst src off base v f, (fetch = true → src ≠ .r10) → (tag = .v1 ∨ s.params.isaVersion = .v3) →
    s.regs.get dst = some base → s.regs.get src = some v →
    atomicUpdate s (base + off.signExtend 64) z (fun o => upd o v) = .error f →
    exec (mk dst src off) s = .next (raise s f)) ∧
  (∀ s dst src off, (fetch = true → src ≠ .r10) → (tag = .v1 ∨ s.params.isaVersion = .v3) → s.regs.get dst = none →
    exec (mk dst src off) s = .next (raise s (.uninitRegister dst))) ∧
  (∀ s dst src off base, (fetch = true → src ≠ .r10) → (tag = .v1 ∨ s.params.isaVersion = .v3) → s.regs.get dst = some base →
    s.regs.get src = none → exec (mk dst src off) s = .next (raise s (.uninitRegister src)))

/-- An atomic operation other than compare and exchange (R272, R273). -/
def AtomicRule (op : BitVec 8) (imm : Imm) (mk : Reg → Reg → Off → Instr) (tag : IsaVersion) (z : Size)
    (upd : Word → Word → Word) (fetch : Bool) : Prop :=
  CodedAtomic op imm mk tag fetch ∧ AtomicEnds mk z tag upd fetch

/-- Compare and exchange (R286, R296): `upd old r v` is stored, R0 receives the old value, the source register is not
written and may be R10; R0 is examined after the two registers. -/
def CompareRule (op : BitVec 8) (mk : Reg → Reg → Off → Instr) (z : Size) (upd : Word → Word → Word → Word) : Prop :=
  CodedAtomic op 0xf1 mk .v3 false ∧
  (∀ s dst src off base v r old t, s.params.isaVersion = .v3 → s.regs.get dst = some base →
    s.regs.get src = some v → s.regs.get .r0 = some r →
    atomicUpdate s (base + off.signExtend 64) z (fun o => upd o r v) = .ok (old, t) →
    exec (mk dst src off) s = .next (put t .r0 old)) ∧
  (∀ s dst src off base v r f, s.params.isaVersion = .v3 → s.regs.get dst = some base →
    s.regs.get src = some v → s.regs.get .r0 = some r →
    atomicUpdate s (base + off.signExtend 64) z (fun o => upd o r v) = .error f →
    exec (mk dst src off) s = .next (raise s f)) ∧
  (∀ s dst src off, s.params.isaVersion = .v3 → s.regs.get dst = none →
    exec (mk dst src off) s = .next (raise s (.uninitRegister dst))) ∧
  (∀ s dst src off base, s.params.isaVersion = .v3 → s.regs.get dst = some base → s.regs.get src = none →
    exec (mk dst src off) s = .next (raise s (.uninitRegister src))) ∧
  (∀ s dst src off base v, s.params.isaVersion = .v3 → s.regs.get dst = some base → s.regs.get src = some v →
    s.regs.get .r0 = none → exec (mk dst src off) s = .next (raise s (.uninitRegister .r0)))

/-! ### Where loads, stores and atomic operations complete -/

/-- The byte that an access to region `r` finds at an address: the environment's in a shared region (R52), else
memory's. -/
def seenByte (s : State) (r : Region) (a : Nat) : Option Byte :=
  if r.shared then some (Config.oracle s.oracleTick a) else readByte s.mem a

/-- The model's count of shared reads after a read of region `r` (log entry 5). -/
def tickAfter (s : State) (r : Region) : Nat := if r.shared then s.oracleTick + 1 else s.oracleTick

/-- The `z` bytes at an address, all of them seen, are those of `v` in host byte order (R41). -/
def Shows (s : State) (r : Region) (addr : Word) (z : Size) (v : Word) : Prop :=
  v.toNat < 2 ^ (8 * z.bytes) ∧
    ∀ i < z.bytes, seenByte s r (addr.toNat + i) = some (byteAt s.params.hostEndian z.bytes v i)

/-- The `z` bytes at an address hold the low bits of `v` in host byte order, and every other byte reads as before
(R42). -/
def Stored (s : State) (m : Memory) (addr : Word) (z : Size) (v : Word) : Prop :=
  (∀ i < z.bytes, readByte m (addr.toNat + i) = some (byteAt s.params.hostEndian z.bytes v i)) ∧
    ∀ a : Nat, a < addr.toNat ∨ addr.toNat + z.bytes ≤ a → readByte m a = readByte s.mem a

/-- The bytes lie in the region `r` of a state whose regions are as R43 says. -/
def InPlace (s : State) (r : Region) (addr : Word) (z : Size) : Prop :=
  regionsOk s.regions = true ∧ r ∈ s.regions ∧ covers r addr z

/-- The alignment that `MemRead` and `MemWrite` ask for (R48). -/
def Placed (s : State) (addr : Word) (z : Size) : Prop :=
  addr.toNat % z.bytes = 0 ∨ s.params.misaligned = .permit

/-- A load completes where its base is readable and its bytes lie in a readable region, aligned, none of them
`nobyte`. -/
def LoadCompletes (mk : Reg → Reg → Off → Instr) (z : Size) : Prop :=
  ∀ s dst src off base r v, dst ≠ .r10 → s.regs.get src = some base →
    InPlace s r (base + off.signExtend 64) z → r.readable = true → Placed s (base + off.signExtend 64) z →
    Shows s r (base + off.signExtend 64) z v →
    exec (mk dst src off) s = .next { put s dst v with oracleTick := tickAfter s r }

/-- A store of an immediate completes where its base is readable and its bytes lie in a writable region, aligned. -/
def StoreImmCompletes (mk : Reg → Off → Imm → Instr) (z : Size) : Prop :=
  ∀ s dst off imm base r, s.regs.get dst = some base →
    InPlace s r (base + off.signExtend 64) z → r.writable = true → Placed s (base + off.signExtend 64) z →
    ∃ m, exec (mk dst off imm) s = .next { goOn s with mem := m } ∧
      Stored s m (base + off.signExtend 64) z (imm.signExtend 64)

/-- A store of a register completes where both registers are readable and its bytes lie in a writable region,
aligned. -/
def StoreRegCompletes (mk : Reg → Reg → Off → Instr) (z : Size) : Prop :=
  ∀ s dst src off base v r, s.regs.get dst = some base → s.regs.get src = some v →
    InPlace s r (base + off.signExtend 64) z → r.writable = true → Placed s (base + off.signExtend 64) z →
    ∃ m, exec (mk dst src off) s = .next { goOn s with mem := m } ∧ Stored s m (base + off.signExtend 64) z v

/-- An atomic operation completes where both registers are readable and its bytes lie in a region that is readable and
writable, aligned, none of them `nobyte`. -/
def AtomicCompletes (mk : Reg → Reg → Off → Instr) (z : Size) (tag : IsaVersion) (upd : Word → Word → Word)
    (fetch : Bool) : Prop :=
  ∀ s dst src off base v r old, (fetch = true → src ≠ .r10) → (tag = .v1 ∨ s.params.isaVersion = .v3) →
    s.regs.get dst = some base → s.regs.get src = some v →
    InPlace s r (base + off.signExtend 64) z → r.readable = true → r.writable = true →
    (base + off.signExtend 64).toNat % z.bytes = 0 → Shows s r (base + off.signExtend 64) z old →
    ∃ m, exec (mk dst src off) s =
        .next { (if fetch then put s src old else goOn s) with mem := m, oracleTick := tickAfter s r } ∧
      Stored s m (base + off.signExtend 64) z (upd old v)

/-- The same for compare and exchange, which also needs R0. -/
def CompareCompletes (mk : Reg → Reg → Off → Instr) (z : Size) (upd : Word → Word → Word → Word) : Prop :=
  ∀ s dst src off base v k r old, s.params.isaVersion = .v3 → s.regs.get dst = some base → s.regs.get src = some v →
    s.regs.get .r0 = some k → InPlace s r (base + off.signExtend 64) z → r.readable = true → r.writable = true →
    (base + off.signExtend 64).toNat % z.bytes = 0 → Shows s r (base + off.signExtend 64) z old →
    ∃ m, exec (mk dst src off) s = .next { put s .r0 old with mem := m, oracleTick := tickAfter s r } ∧
      Stored s m (base + off.signExtend 64) z (upd old k v)

/-! ### Called functions -/

/-- What each action of a called function does (R59, R244), in the language of log entry 6: it returns the value,
fails with `HelperFault`, reads the argument registers it chooses (lowest number first), loads what `MemRead` answers,
leaves the state that `MemWrite` gives, or goes on by a condition; what an access raises is raised. -/
def HelperActions : Prop :=
  ∀ (n : Imm) (vals : List Word) (s : State),
    (∀ e, runHelper n (.ret e) vals s = .ok (evalHelper vals e, s)) ∧
    (∀ e, runHelper n (.fail e) vals s = .error (.helperFault n (evalHelper vals e))) ∧
    (∀ regs k more, (argRegs regs).map s.regs.get = more.map some →
      runHelper n (.readArgs regs k) vals s = runHelper n k (vals ++ more) s) ∧
    (∀ regs k pre r post, argRegs regs = pre ++ r :: post → (∀ q ∈ pre, (s.regs.get q).isSome = true) →
      s.regs.get r = none → runHelper n (.readArgs regs k) vals s = .error (.uninitRegister r)) ∧
    (∀ a z k v t, memRead s (evalHelper vals a) z = .ok (v, t) →
      runHelper n (.load a z k) vals s = runHelper n k (vals ++ [v]) t) ∧
    (∀ a z k f, memRead s (evalHelper vals a) z = .error f → runHelper n (.load a z k) vals s = .error f) ∧
    (∀ a z w k t, memWrite s (evalHelper vals a) z (evalHelper vals w) = .ok t →
      runHelper n (.store a z w k) vals s = runHelper n k vals t) ∧
    (∀ a z w k f, memWrite s (evalHelper vals a) z (evalHelper vals w) = .error f →
      runHelper n (.store a z w k) vals s = .error f) ∧
    (∀ c yes no, runHelper n (.branch c yes no) vals s =
      runHelper n (if evalHelper vals c = 0 then no else yes) vals s)

/-! ### Byte swaps -/

/-- The low `8n` bits with their bytes reversed, as a number: the byte of weight `i` goes to weight `n-1-i`. -/
def reversed : Nat → Nat → Nat
  | 0, _ => 0
  | n + 1, v => v % 256 * 256 ^ n + reversed n (v / 256)

/-- A byte swap (R183 to R188): on a host whose order is `target` the low bits as they stand, else reversed; the rest of
the register zero. -/
def SwapRule (op : BitVec 8) (imm : Imm) (mk : Reg → Instr) (target : Endian) (n : Nat) : Prop :=
  CodedEnd op imm mk ∧
  (∀ s dst (a : Word), dst ≠ .r10 → s.regs.get dst = some a → s.params.hostEndian = target →
    exec (mk dst) s = .next (put s dst (BitVec.ofNat 64 (a.toNat % 256 ^ n)))) ∧
  (∀ s dst (a : Word), dst ≠ .r10 → s.regs.get dst = some a → s.params.hostEndian ≠ target →
    exec (mk dst) s = .next (put s dst (BitVec.ofNat 64 (reversed n a.toNat)))) ∧
  (∀ s dst, dst ≠ .r10 → s.regs.get dst = none → exec (mk dst) s = .next (raise s (.uninitRegister dst)))

/-! ### Legacy packet loads -/

/-- The number whose base-256 digits are these, the first the most significant (R311). -/
def bigEndian (bs : List Byte) : Nat := bs.foldl (fun acc b => 256 * acc + b.toNat) 0

/-- What a legacy load does once R6 is read as `x6` and its offset is `o` (R306 to R308, R311): `ends` is the state of
the instruction. -/
def PacketEnds (s : State) (x6 : Word) (o : Int) (n : Nat) (result : Host.Outcome State Fault Refusal) : Prop :=
  ((∀ q, s.packet = some q → x6 ≠ q.designator) → result = .next (raise s .packetContext)) ∧
  (∀ q, s.packet = some q → x6 = q.designator →
    (o < 0 ∨ (q.data.length : Int) < o + n → result = .next { s with outcome := .abort }) ∧
    (0 ≤ o → o + n ≤ q.data.length →
      result = .next (putClobber s (BitVec.ofNat 64 (bigEndian ((q.data.drop o.toNat).take n))))))

/-- `BPF_ABS` (R312 to R314). -/
def AbsRule (op : BitVec 8) (mk : Imm → Instr) (n : Nat) : Prop :=
  (∀ p second imm, decode p (packSlot op 0 0 0 imm) second = .ok (mk imm)) ∧
  Refuses op (fun w => dstField w ≠ 0 ∨ srcField w ≠ 0 ∨ offField w ≠ 0) ∧
  (∀ s imm, s.regs.get .r6 = none → exec (mk imm) s = .next (raise s (.uninitRegister .r6))) ∧
  (∀ s imm x6, s.regs.get .r6 = some x6 → PacketEnds s x6 imm.toInt n (exec (mk imm) s))

/-- `BPF_IND` (R315 to R317). -/
def IndRule (op : BitVec 8) (mk : Reg → Imm → Instr) (n : Nat) : Prop :=
  (∀ p second src imm, decode p (packSlot op 0 src.field 0 imm) second = .ok (mk src imm)) ∧
  Refuses op (fun w => dstField w ≠ 0 ∨ offField w ≠ 0 ∨ 10 < (srcField w).toNat) ∧
  (∀ s src imm, s.regs.get .r6 = none → exec (mk src imm) s = .next (raise s (.uninitRegister .r6))) ∧
  (∀ s src imm x6, s.regs.get .r6 = some x6 → s.regs.get src = none →
    exec (mk src imm) s = .next (raise s (.uninitRegister src))) ∧
  (∀ s src imm x6 v, s.regs.get .r6 = some x6 → s.regs.get src = some v →
    PacketEnds s x6 (v + imm.signExtend 64).toInt n (exec (mk src imm) s))

/-! ### The whole instruction set -/

/-- The base register, offset and size of the bytes an instruction itself stores to; none for one that stores nothing
(and for `call`, whose memory effects are the called function's, R59). -/
def storeTarget : Instr → Option (Reg × Off × Size)
  | .stw dst off _ | .stxw dst _ off | .atomicAdd32 dst _ off | .atomicFetchAdd32 dst _ off
  | .atomicOr32 dst _ off | .atomicFetchOr32 dst _ off | .atomicAnd32 dst _ off | .atomicFetchAnd32 dst _ off
  | .atomicXor32 dst _ off | .atomicFetchXor32 dst _ off | .atomicXchg32 dst _ off | .atomicCmpxchg32 dst _ off => some (dst, off, .w)
  | .sth dst off _ | .stxh dst _ off => some (dst, off, .h)
  | .stb dst off _ | .stxb dst _ off => some (dst, off, .b)
  | .stdw dst off _ | .stxdw dst _ off | .atomicAdd64 dst _ off | .atomicFetchAdd64 dst _ off
  | .atomicOr64 dst _ off | .atomicFetchOr64 dst _ off | .atomicAnd64 dst _ off | .atomicFetchAnd64 dst _ off
  | .atomicXor64 dst _ off | .atomicFetchXor64 dst _ off | .atomicXchg64 dst _ off | .atomicCmpxchg64 dst _ off => some (dst, off, .dw)
  | .add32K _ _ | .add32X _ _ | .add64K _ _ | .add64X _ _ | .sub32K _ _ | .sub32X _ _ | .sub64K _ _
  | .sub64X _ _ | .mul32K _ _ | .mul32X _ _ | .mul64K _ _ | .mul64X _ _ | .div32K _ _ | .div32X _ _
  | .div64K _ _ | .div64X _ _ | .or32K _ _ | .or32X _ _ | .or64K _ _ | .or64X _ _ | .and32K _ _ | .and32X _ _
  | .and64K _ _ | .and64X _ _ | .lsh32K _ _ | .lsh32X _ _ | .lsh64K _ _ | .lsh64X _ _ | .rsh32K _ _
  | .rsh32X _ _ | .rsh64K _ _ | .rsh64X _ _ | .neg32K _ _ | .neg32X _ _ | .neg64K _ _ | .neg64X _ _
  | .mod32K _ _ | .mod32X _ _ | .mod64K _ _ | .mod64X _ _ | .xor32K _ _ | .xor32X _ _ | .xor64K _ _
  | .xor64X _ _ | .mov32K _ _ | .mov32X _ _ | .mov64K _ _ | .mov64X _ _ | .arsh32K _ _ | .arsh32X _ _
  | .arsh64K _ _ | .arsh64X _ _ | .le16 _ | .le32 _ | .le64 _ | .be16 _ | .be32 _ | .be64 _ | .ja _
  | .jeqK _ _ _ | .jeqX _ _ _ | .jeq32K _ _ _ | .jeq32X _ _ _ | .jgtK _ _ _ | .jgtX _ _ _ | .jgt32K _ _ _
  | .jgt32X _ _ _ | .jgeK _ _ _ | .jgeX _ _ _ | .jge32K _ _ _ | .jge32X _ _ _ | .jsetK _ _ _ | .jsetX _ _ _
  | .jset32K _ _ _ | .jset32X _ _ _ | .jneK _ _ _ | .jneX _ _ _ | .jne32K _ _ _ | .jne32X _ _ _ | .jsgtK _ _ _
  | .jsgtX _ _ _ | .jsgt32K _ _ _ | .jsgt32X _ _ _ | .jsgeK _ _ _ | .jsgeX _ _ _ | .jsge32K _ _ _
  | .jsge32X _ _ _ | .jltK _ _ _ | .jltX _ _ _ | .jlt32K _ _ _ | .jlt32X _ _ _ | .jleK _ _ _ | .jleX _ _ _
  | .jle32K _ _ _ | .jle32X _ _ _ | .jsltK _ _ _ | .jsltX _ _ _ | .jslt32K _ _ _ | .jslt32X _ _ _
  | .jsleK _ _ _ | .jsleX _ _ _ | .jsle32K _ _ _ | .jsle32X _ _ _ | .call _ | .exit | .ldxw _ _ _ | .ldxh _ _ _
  | .ldxb _ _ _ | .ldxdw _ _ _ | .lddw _ _ | .ldabsw _ | .ldabsh _ | .ldabsb _ | .ldindw _ _ | .ldindh _ _
  | .ldindb _ _ => none

/-- The slots an instruction fills (R10, R75). -/
def slotCount : Instr → Int
  | .lddw _ _ => 2
  | .add32K _ _ | .add32X _ _ | .add64K _ _ | .add64X _ _ | .sub32K _ _ | .sub32X _ _ | .sub64K _ _
  | .sub64X _ _ | .mul32K _ _ | .mul32X _ _ | .mul64K _ _ | .mul64X _ _ | .div32K _ _ | .div32X _ _
  | .div64K _ _ | .div64X _ _ | .or32K _ _ | .or32X _ _ | .or64K _ _ | .or64X _ _ | .and32K _ _ | .and32X _ _
  | .and64K _ _ | .and64X _ _ | .lsh32K _ _ | .lsh32X _ _ | .lsh64K _ _ | .lsh64X _ _ | .rsh32K _ _
  | .rsh32X _ _ | .rsh64K _ _ | .rsh64X _ _ | .neg32K _ _ | .neg32X _ _ | .neg64K _ _ | .neg64X _ _
  | .mod32K _ _ | .mod32X _ _ | .mod64K _ _ | .mod64X _ _ | .xor32K _ _ | .xor32X _ _ | .xor64K _ _
  | .xor64X _ _ | .mov32K _ _ | .mov32X _ _ | .mov64K _ _ | .mov64X _ _ | .arsh32K _ _ | .arsh32X _ _
  | .arsh64K _ _ | .arsh64X _ _ | .le16 _ | .le32 _ | .le64 _ | .be16 _ | .be32 _ | .be64 _ | .ja _
  | .jeqK _ _ _ | .jeqX _ _ _ | .jeq32K _ _ _ | .jeq32X _ _ _ | .jgtK _ _ _ | .jgtX _ _ _ | .jgt32K _ _ _
  | .jgt32X _ _ _ | .jgeK _ _ _ | .jgeX _ _ _ | .jge32K _ _ _ | .jge32X _ _ _ | .jsetK _ _ _ | .jsetX _ _ _
  | .jset32K _ _ _ | .jset32X _ _ _ | .jneK _ _ _ | .jneX _ _ _ | .jne32K _ _ _ | .jne32X _ _ _ | .jsgtK _ _ _
  | .jsgtX _ _ _ | .jsgt32K _ _ _ | .jsgt32X _ _ _ | .jsgeK _ _ _ | .jsgeX _ _ _ | .jsge32K _ _ _
  | .jsge32X _ _ _ | .jltK _ _ _ | .jltX _ _ _ | .jlt32K _ _ _ | .jlt32X _ _ _ | .jleK _ _ _ | .jleX _ _ _
  | .jle32K _ _ _ | .jle32X _ _ _ | .jsltK _ _ _ | .jsltX _ _ _ | .jslt32K _ _ _ | .jslt32X _ _ _
  | .jsleK _ _ _ | .jsleX _ _ _ | .jsle32K _ _ _ | .jsle32X _ _ _ | .call _ | .exit | .ldxw _ _ _ | .ldxh _ _ _
  | .ldxb _ _ _ | .ldxdw _ _ _ | .stw _ _ _ | .sth _ _ _ | .stb _ _ _ | .stdw _ _ _ | .stxw _ _ _ | .stxh _ _ _
  | .stxb _ _ _ | .stxdw _ _ _ | .atomicAdd32 _ _ _ | .atomicFetchAdd32 _ _ _ | .atomicOr32 _ _ _
  | .atomicFetchOr32 _ _ _ | .atomicAnd32 _ _ _ | .atomicFetchAnd32 _ _ _ | .atomicXor32 _ _ _
  | .atomicFetchXor32 _ _ _ | .atomicXchg32 _ _ _ | .atomicCmpxchg32 _ _ _ | .atomicAdd64 _ _ _
  | .atomicFetchAdd64 _ _ _ | .atomicOr64 _ _ _ | .atomicFetchOr64 _ _ _ | .atomicAnd64 _ _ _
  | .atomicFetchAnd64 _ _ _ | .atomicXor64 _ _ _ | .atomicFetchXor64 _ _ _ | .atomicXchg64 _ _ _
  | .atomicCmpxchg64 _ _ _ | .ldabsw _ | .ldabsh _ | .ldabsb _ | .ldindw _ _ | .ldindh _ _ | .ldindb _ _ => 1

/-- The jumps that can be taken, with their offset (R191). -/
def jumpOffset : Instr → Option Off
  | .ja off | .jeqK _ _ off | .jeqX _ _ off | .jeq32K _ _ off | .jeq32X _ _ off | .jgtK _ _ off | .jgtX _ _ off
  | .jgt32K _ _ off | .jgt32X _ _ off | .jgeK _ _ off | .jgeX _ _ off | .jge32K _ _ off | .jge32X _ _ off
  | .jsetK _ _ off | .jsetX _ _ off | .jset32K _ _ off | .jset32X _ _ off | .jneK _ _ off | .jneX _ _ off
  | .jne32K _ _ off | .jne32X _ _ off | .jsgtK _ _ off | .jsgtX _ _ off | .jsgt32K _ _ off | .jsgt32X _ _ off
  | .jsgeK _ _ off | .jsgeX _ _ off | .jsge32K _ _ off | .jsge32X _ _ off | .jltK _ _ off | .jltX _ _ off
  | .jlt32K _ _ off | .jlt32X _ _ off | .jleK _ _ off | .jleX _ _ off | .jle32K _ _ off | .jle32X _ _ off
  | .jsltK _ _ off | .jsltX _ _ off | .jslt32K _ _ off | .jslt32X _ _ off | .jsleK _ _ off | .jsleX _ _ off
  | .jsle32K _ _ off | .jsle32X _ _ off => some off
  | .add32K _ _ | .add32X _ _ | .add64K _ _ | .add64X _ _ | .sub32K _ _ | .sub32X _ _ | .sub64K _ _
  | .sub64X _ _ | .mul32K _ _ | .mul32X _ _ | .mul64K _ _ | .mul64X _ _ | .div32K _ _ | .div32X _ _
  | .div64K _ _ | .div64X _ _ | .or32K _ _ | .or32X _ _ | .or64K _ _ | .or64X _ _ | .and32K _ _ | .and32X _ _
  | .and64K _ _ | .and64X _ _ | .lsh32K _ _ | .lsh32X _ _ | .lsh64K _ _ | .lsh64X _ _ | .rsh32K _ _
  | .rsh32X _ _ | .rsh64K _ _ | .rsh64X _ _ | .neg32K _ _ | .neg32X _ _ | .neg64K _ _ | .neg64X _ _
  | .mod32K _ _ | .mod32X _ _ | .mod64K _ _ | .mod64X _ _ | .xor32K _ _ | .xor32X _ _ | .xor64K _ _
  | .xor64X _ _ | .mov32K _ _ | .mov32X _ _ | .mov64K _ _ | .mov64X _ _ | .arsh32K _ _ | .arsh32X _ _
  | .arsh64K _ _ | .arsh64X _ _ | .le16 _ | .le32 _ | .le64 _ | .be16 _ | .be32 _ | .be64 _ | .call _ | .exit
  | .ldxw _ _ _ | .ldxh _ _ _ | .ldxb _ _ _ | .ldxdw _ _ _ | .stw _ _ _ | .sth _ _ _ | .stb _ _ _ | .stdw _ _ _
  | .stxw _ _ _ | .stxh _ _ _ | .stxb _ _ _ | .stxdw _ _ _ | .atomicAdd32 _ _ _ | .atomicFetchAdd32 _ _ _
  | .atomicOr32 _ _ _ | .atomicFetchOr32 _ _ _ | .atomicAnd32 _ _ _ | .atomicFetchAnd32 _ _ _
  | .atomicXor32 _ _ _ | .atomicFetchXor32 _ _ _ | .atomicXchg32 _ _ _ | .atomicCmpxchg32 _ _ _
  | .atomicAdd64 _ _ _ | .atomicFetchAdd64 _ _ _ | .atomicOr64 _ _ _ | .atomicFetchOr64 _ _ _
  | .atomicAnd64 _ _ _ | .atomicFetchAnd64 _ _ _ | .atomicXor64 _ _ _ | .atomicFetchXor64 _ _ _
  | .atomicXchg64 _ _ _ | .atomicCmpxchg64 _ _ _ | .lddw _ _ | .ldabsw _ | .ldabsh _ | .ldabsb _ | .ldindw _ _
  | .ldindh _ _ | .ldindb _ _ => none

/-- The faults that can come of an instruction after decode, by kind (R322, column "raising rules"). -/
inductive FaultKind where
  | division | shift | data | call | packet | other
deriving DecidableEq, Repr

/-- The kind of fault particular to an instruction, besides `UninitRegister`. -/
def faultKind : Instr → FaultKind
  | .div32K _ _ | .div32X _ _ | .div64K _ _ | .div64X _ _ | .mod32K _ _ | .mod32X _ _ | .mod64K _ _
  | .mod64X _ _ => .division
  | .lsh32K _ _ | .lsh32X _ _ | .lsh64K _ _ | .lsh64X _ _ | .rsh32K _ _ | .rsh32X _ _ | .rsh64K _ _
  | .rsh64X _ _ | .arsh32K _ _ | .arsh32X _ _ | .arsh64K _ _ | .arsh64X _ _ => .shift
  | .ldxw _ _ _ | .ldxh _ _ _ | .ldxb _ _ _ | .ldxdw _ _ _ | .stw _ _ _ | .sth _ _ _ | .stb _ _ _ | .stdw _ _ _
  | .stxw _ _ _ | .stxh _ _ _ | .stxb _ _ _ | .stxdw _ _ _ | .atomicAdd32 _ _ _ | .atomicFetchAdd32 _ _ _
  | .atomicOr32 _ _ _ | .atomicFetchOr32 _ _ _ | .atomicAnd32 _ _ _ | .atomicFetchAnd32 _ _ _
  | .atomicXor32 _ _ _ | .atomicFetchXor32 _ _ _ | .atomicXchg32 _ _ _ | .atomicCmpxchg32 _ _ _
  | .atomicAdd64 _ _ _ | .atomicFetchAdd64 _ _ _ | .atomicOr64 _ _ _ | .atomicFetchOr64 _ _ _
  | .atomicAnd64 _ _ _ | .atomicFetchAnd64 _ _ _ | .atomicXor64 _ _ _ | .atomicFetchXor64 _ _ _
  | .atomicXchg64 _ _ _ | .atomicCmpxchg64 _ _ _ => .data
  | .call _ => .call
  | .ldabsw _ | .ldabsh _ | .ldabsb _ | .ldindw _ _ | .ldindh _ _ | .ldindb _ _ => .packet
  | .add32K _ _ | .add32X _ _ | .add64K _ _ | .add64X _ _ | .sub32K _ _ | .sub32X _ _ | .sub64K _ _
  | .sub64X _ _ | .mul32K _ _ | .mul32X _ _ | .mul64K _ _ | .mul64X _ _ | .or32K _ _ | .or32X _ _ | .or64K _ _
  | .or64X _ _ | .and32K _ _ | .and32X _ _ | .and64K _ _ | .and64X _ _ | .neg32K _ _ | .neg32X _ _
  | .neg64K _ _ | .neg64X _ _ | .xor32K _ _ | .xor32X _ _ | .xor64K _ _ | .xor64X _ _ | .mov32K _ _
  | .mov32X _ _ | .mov64K _ _ | .mov64X _ _ | .le16 _ | .le32 _ | .le64 _ | .be16 _ | .be32 _ | .be64 _ | .ja _
  | .jeqK _ _ _ | .jeqX _ _ _ | .jeq32K _ _ _ | .jeq32X _ _ _ | .jgtK _ _ _ | .jgtX _ _ _ | .jgt32K _ _ _
  | .jgt32X _ _ _ | .jgeK _ _ _ | .jgeX _ _ _ | .jge32K _ _ _ | .jge32X _ _ _ | .jsetK _ _ _ | .jsetX _ _ _
  | .jset32K _ _ _ | .jset32X _ _ _ | .jneK _ _ _ | .jneX _ _ _ | .jne32K _ _ _ | .jne32X _ _ _ | .jsgtK _ _ _
  | .jsgtX _ _ _ | .jsgt32K _ _ _ | .jsgt32X _ _ _ | .jsgeK _ _ _ | .jsgeX _ _ _ | .jsge32K _ _ _
  | .jsge32X _ _ _ | .jltK _ _ _ | .jltX _ _ _ | .jlt32K _ _ _ | .jlt32X _ _ _ | .jleK _ _ _ | .jleX _ _ _
  | .jle32K _ _ _ | .jle32X _ _ _ | .jsltK _ _ _ | .jsltX _ _ _ | .jslt32K _ _ _ | .jslt32X _ _ _
  | .jsleK _ _ _ | .jsleX _ _ _ | .jsle32K _ _ _ | .jsle32X _ _ _ | .exit | .lddw _ _ => .other

/-- The faults a kind admits (R322); `UninitRegister` and `IllegalInstruction` belong to every instruction. -/
def FaultKind.admits : FaultKind → Fault → Bool
  | .division, .divideByZero => true
  | .shift, .shiftOutOfRange => true
  | .data, .memFault _ _ _ | .data, .misaligned _ _ | .data, .uninitMemory _ _ => true
  | .call, .memFault _ _ _ | .call, .misaligned _ _ | .call, .uninitMemory _ _ => true
  | .call, .unknownFunction _ | .call, .helperFault _ _ => true
  | .packet, .packetContext => true
  | _, .uninitRegister _ => true
  | _, _ => false

end Sys2Proof.Machine
end

