-- ==== Sys2Proof/Certificates/Slice0/Obligations.lean ====
section
/-! DEFINITION. The statements for the provers. -/

open Sys2Proof Sys2Proof.Machine

/-- O1. The launch state is that of R35. For every choice of the host, launch leaves R0 and R6 to R9 novalue, R1 to
R5 the entry arguments, R10 the stack base plus the stack size, pc 0, outcome running, the memory content the host
gave (none of it the stack's when the choice is admitted), and the stack region readable, writable and not shared.
These launch values are decision D28 of the spec (10_state.md R35), not the source's. The sum for R10 is taken
modulo 2^64: that a stack region which ends at 2^64 leaves 0 there is the model's choice (log entry 18). From
10_state.md R35; 70_reset_and_hazards.md R350; 92_eei_decisions.md D28; log entry 18. -/
def Obligations.LaunchState : Prop :=
  ∀ c : LaunchConfig,
    (∀ r ∈ [Reg.r0, .r6, .r7, .r8, .r9], (launch c).regs.get r = none) ∧
    (launch c).regs.get .r1 = c.arg1 ∧ (launch c).regs.get .r2 = c.arg2 ∧ (launch c).regs.get .r3 = c.arg3 ∧
    (launch c).regs.get .r4 = c.arg4 ∧ (launch c).regs.get .r5 = c.arg5 ∧
    (launch c).regs.get .r10 = some (BitVec.ofNat 64 (c.stackBase + c.stackSize)) ∧
    (launch c).pc = 0 ∧ (launch c).outcome = .running ∧ (launch c).mem = c.content ∧
    (launch c).program = c.program ∧ (launch c).packet = c.packet ∧
    (∃ r ∈ (launch c).regions, r.base = c.stackBase ∧ r.length = c.stackSize ∧ r.readable = true ∧
      r.writable = true ∧ r.shared = false) ∧
    (c.ok = true → ∀ a, c.stackBase ≤ a → a < c.stackBase + c.stackSize → readByte (launch c).mem a = none)

/-- O2. A launch the spec admits meets the invariant. If the host's choices are as R43, R44 and R350 ask (disjoint
regions below 2^64, contents in the other regions only), the launch state meets the invariant of the machine. From
10_state.md R35; 20_memory.md R43; 20_memory.md R44; 70_reset_and_hazards.md R351. -/
def Obligations.LaunchInvariant : Prop :=
  ∀ c : LaunchConfig, c.ok = true → (launch c).Inv

/-- O3. State.reset: pc 0, running, nothing written, every register a value (the model's choices: log entries 1 to
8). State.reset has pc 0, outcome running, no byte of memory written and R10 one past the stack region, as R35 says
of a launch. Model's choices, not the spec's: R0 to R9 hold 0 (log entry 1), the stack is 0x1000 to 0x11ff and the
only region (log entry 3), no program, helper or packet (log entries 6, 7, 8). It differs from a launch of the spec
in R0 to R9 alone. From 10_state.md R35 (launch values); 70_reset_and_hazards.md R350; log entries 1, 2, 3, 6, 7, 8. -/
def Obligations.ResetState : Prop :=
  State.reset.pc = 0 ∧ State.reset.outcome = .running ∧ (∀ a, readByte State.reset.mem a = none) ∧
  State.reset.regs.get .r10 = some 0x1200 ∧
  (∀ r, r ≠ .r10 → State.reset.regs.get r = some 0) ∧
  State.reset.regions = [stackRegion 0x1000 512] ∧
  State.reset = { launch
      { params := defaultParams, program := [], stackBase := 0x1000, stackSize := 512, otherRegions := [],
        content := [], helpers := [], packet := none, arg1 := none, arg2 := none, arg3 := none, arg4 := none,
        arg5 := none, abortResult := none } with regs := State.reset.regs }

/-- O4. State.reset meets the invariant of the machine. The state after reset meets State.Inv. From 10_state.md R35;
20_memory.md R43. -/
def Obligations.ResetInvariant : Prop :=
  State.reset.Inv

/-- O5. Every step keeps the invariant. From every state that meets State.Inv (memory in canonical form, every byte
of it in a region, disjoint regions below 2^64, a value in the frame pointer), a step that answers a next state
gives one that meets it: stores, atomic operations and called functions write inside regions only, and nothing
writes R10. From 10_state.md R23; 20_memory.md R42; 20_memory.md R43; 20_memory.md R59. -/
def Obligations.InvariantKept : Prop :=
  ∀ s t : State, s.Inv → step s = .next t → t.Inv

/-- O6. No step changes the program, the parameters of the run or R10. A step leaves the program, the parameters of
R6, the regions, the helpers, the packet, ABORT_RESULT and R10 as they were. From 10_state.md R23; 10_state.md R34;
20_memory.md R56; 60_exceptions.md R327. -/
def Obligations.SettingKept : Prop :=
  ∀ s t : State, step s = .next t → SameSetting s t

/-- O7. A byte outside every writable region never changes. Whatever instruction a step runs, plain store, atomic
operation or called function, a byte that lies in no writable region reads after the step as before it, in every
state. From 20_memory.md R42; 20_memory.md R43; 20_memory.md R57; 20_memory.md R59. -/
def Obligations.ReadOnlyMemory : Prop :=
  ∀ (s t : State) (a : Nat), step s = .next t →
    (∀ r ∈ s.regions, inRegion r a = true → r.writable = false) → readByte t.mem a = readByte s.mem a

/-- O8. A step runs the instruction that the slots at pc decode to. While the run goes on, if pc is k, slot k is w,
k is no second slot of a wide instruction, and w with the slot after it decodes to i, then the step is exec of i at
that very state, and i is well-formed. From 00_scope.md R14; 30_encoding.md R90. -/
def Obligations.StepRunsDecoded : Prop :=
  ∀ (s : State) (k : Nat) (w : Word) (i : Instr), s.outcome = .running → s.pc = k → s.program[k]? = some w →
    isSecondSlot s.program k = false → decode s.params w s.program[k + 1]? = .ok i →
    step s = exec i s ∧ i.WellFormed s.params

/-- O9. Where pc names no instruction, and where the slot is ill-formed, the step takes the fault. While the run
goes on: if pc is negative, not below the number of slots, or the second slot of a wide instruction, the step takes
PcOutOfRange(pc); if the slot at pc is refused by the decoder with a reason, the step takes IllegalInstruction with
that reason and the slot. Nothing but the outcome changes. From 30_encoding.md R90; 30_encoding.md R91; 10_state.md
R29; 45_imm64.md R303. -/
def Obligations.StepFaultsAtFetch : Prop :=
  ∀ s : State, s.outcome = .running →
    (s.pc < 0 ∨ (s.program.length : Int) ≤ s.pc ∨ isSecondSlot s.program s.pc.toNat = true →
      step s = .next (raise s (.pcOutOfRange s.pc))) ∧
    (∀ (k : Nat) (w : Word) (r : IllFormed), s.pc = k → s.program[k]? = some w →
      isSecondSlot s.program k = false → decode s.params w s.program[k + 1]? = .error r →
      step s = .next (raise s (.illegalInstruction r w)))

/-- O10. Second slots are found by walking instruction lengths from slot 0. Slot 0 is never a second slot; slot k+1
is one exactly if slot k is none and its opcode byte is 0x18: a slot that follows the second slot of a wide
instruction is not a second slot whatever that second slot holds. From 30_encoding.md R90; 45_imm64.md R302;
45_imm64.md R303. -/
def Obligations.SecondSlotWalk : Prop :=
  ∀ program : List Word, isSecondSlot program 0 = false ∧
    ∀ (k : Nat) (w : Word), program[k]? = some w →
      (isSecondSlot program (k + 1) = true ↔ isSecondSlot program k = false ∧ opcodeField w = 0x18)

/-- O11. Once the run has ended nothing more is executed. After Exit and Abort a step leaves the state as it is;
after a fault there is no next state and the step answers the reason. How an ended run steps is the model's choice
(log entry 9); that the outcome never changes is R320. From 60_exceptions.md R320; 60_exceptions.md R325; log entry
9. -/
def Obligations.EndedRunStays : Prop :=
  ∀ s : State,
    ((∃ v, s.outcome = .exit v) ∨ s.outcome = .abort → step s = .next s) ∧
    (∀ f, s.outcome = .fault f → step s = .fault f)

/-- O12. A fault changes the outcome and nothing else. If a step of a running machine ends with the outcome
Fault(f), whatever it executed, the state after it is the state before it but for the outcome: no register, no byte
of memory, not pc. From 60_exceptions.md R321; 60_exceptions.md R324; 00_scope.md R11. -/
def Obligations.StepFaultsPrecise : Prop :=
  ∀ (s t : State) (f : Fault), s.outcome = .running → step s = .next t → t.outcome = .fault f →
    t = { s with outcome := .fault f }

/-- O13. What the host receives at the end of a run. Of Exit(v) the host receives v, of Abort the parameter
ABORT_RESULT, of Fault(reason) the reason; while the run goes on, nothing. From 70_reset_and_hazards.md R355;
46_legacy_packet.md R308. -/
def Obligations.HostReceives : Prop :=
  ∀ s : State,
    (s.outcome = .running → hostResult s = none) ∧
    (∀ v, s.outcome = .exit v → hostResult s = some (.value v)) ∧
    (s.outcome = .abort → hostResult s = some (.aborted s.abortResult)) ∧
    (∀ f, s.outcome = .fault f → hostResult s = some (.faulted f))

/-- O14. Some words of the spec decode as it says. Words that the spec writes out bit by bit (V-ENC and the rules'
examples) decode to the instructions it names: one of each family. From 30_encoding.md R71; 30_encoding.md R87;
95_test_vectors.md section 2.1. -/
def Obligations.DecodeWords : Prop :=
  decode defaultParams 0x0000000500000107 none = .ok (.add64K .r1 5) ∧
  decode defaultParams 0x00000000fffc21ce none = .ok (.jslt32X .r1 .r2 0xfffc) ∧
  decode defaultParams 0x000000ffffff0a72 none = .ok (.stb .r10 0xffff 0xff) ∧
  decode defaultParams 0x000000f1001076db none = .ok (.atomicCmpxchg64 .r6 .r7 0x10) ∧
  decode defaultParams 0x00000010000003dc none = .ok (.be16 .r3) ∧
  decode defaultParams 0x0000000c00002048 none = .ok (.ldindh .r2 12) ∧
  decode defaultParams 0x0000000000000118 (some 0x1122334455667788) = .ok (.lddw .r1 0x1122334455667788) ∧
  decode defaultParams 0x0000000700000085 none = .ok (.call 7) ∧
  decode defaultParams 0x0000000000000095 none = .ok (.exit) ∧
  decode defaultParams 0x00000000fff8a061 none = .ok (.ldxw .r0 .r10 0xfff8)

/-- O15. The five fields of a slot lie where R71 puts them. Rules R71. The fields of a slot W are its bits 7:0,
11:8, 15:12, 31:16 and 63:32; a slot packed from five fields has these fields, and every slot is its fields packed. -/
def Obligations.SlotFields : Prop :=
  (∀ w : Word, (opcodeField w).toNat = w.toNat % 2 ^ 8 ∧ (dstField w).toNat = w.toNat / 2 ^ 8 % 2 ^ 4 ∧
    (srcField w).toNat = w.toNat / 2 ^ 12 % 2 ^ 4 ∧ (offField w).toNat = w.toNat / 2 ^ 16 % 2 ^ 16 ∧
    (immField w).toNat = w.toNat / 2 ^ 32 % 2 ^ 32) ∧
  (∀ (op : BitVec 8) (d s : BitVec 4) (o : Off) (i : Imm),
    opcodeField (packSlot op d s o i) = op ∧ dstField (packSlot op d s o i) = d ∧
    srcField (packSlot op d s o i) = s ∧ offField (packSlot op d s o i) = o ∧ immField (packSlot op d s o i) = i) ∧
  (∀ w : Word, packSlot (opcodeField w) (dstField w) (srcField w) (offField w) (immField w) = w)

/-- O16. The 134 reserved opcodes, and no others, are refused as reserved. A slot is refused with the reason
ReservedOpcode exactly if its opcode byte is one of the 134 bytes that R93 lists, whatever its other fields, the
slot after it and the parameters are. From 30_encoding.md R87; 30_encoding.md R91; 30_encoding.md R93. -/
def Obligations.ReservedOpcodes : Prop :=
  ∀ (p : Params) (w : Word) (second : Option Word), decode p w second = .error .reservedOpcode ↔
    opcodeField w ∈ reservedOpcodes

/-- O17. Byte swaps and atomic operations are selected by all 32 bits of imm. Rules R88. A slot with opcode 0xd4 or
0xdc that decodes has imm 16, 32 or 64 and is the swap of that width; one with opcode 0xc3 or 0xdb has imm one of
the ten constants and is the operation of that constant. -/
def Obligations.SelectedByImm : Prop :=
  ∀ (p : Params) (w : Word) (second : Option Word) (i : Instr), decode p w second = .ok i →
    (opcodeField w = 0xd4 →
      (immField w = 0x10 ∧ ∃ d, i = .le16 d) ∨
      (immField w = 0x20 ∧ ∃ d, i = .le32 d) ∨
      (immField w = 0x40 ∧ ∃ d, i = .le64 d)) ∧
    (opcodeField w = 0xdc →
      (immField w = 0x10 ∧ ∃ d, i = .be16 d) ∨
      (immField w = 0x20 ∧ ∃ d, i = .be32 d) ∨
      (immField w = 0x40 ∧ ∃ d, i = .be64 d)) ∧
    (opcodeField w = 0xc3 →
      (immField w = 0x00 ∧ ∃ d x o, i = .atomicAdd32 d x o) ∨
      (immField w = 0x01 ∧ ∃ d x o, i = .atomicFetchAdd32 d x o) ∨
      (immField w = 0x40 ∧ ∃ d x o, i = .atomicOr32 d x o) ∨
      (immField w = 0x41 ∧ ∃ d x o, i = .atomicFetchOr32 d x o) ∨
      (immField w = 0x50 ∧ ∃ d x o, i = .atomicAnd32 d x o) ∨
      (immField w = 0x51 ∧ ∃ d x o, i = .atomicFetchAnd32 d x o) ∨
      (immField w = 0xa0 ∧ ∃ d x o, i = .atomicXor32 d x o) ∨
      (immField w = 0xa1 ∧ ∃ d x o, i = .atomicFetchXor32 d x o) ∨
      (immField w = 0xe1 ∧ ∃ d x o, i = .atomicXchg32 d x o) ∨
      (immField w = 0xf1 ∧ ∃ d x o, i = .atomicCmpxchg32 d x o)) ∧
    (opcodeField w = 0xdb →
      (immField w = 0x00 ∧ ∃ d x o, i = .atomicAdd64 d x o) ∨
      (immField w = 0x01 ∧ ∃ d x o, i = .atomicFetchAdd64 d x o) ∨
      (immField w = 0x40 ∧ ∃ d x o, i = .atomicOr64 d x o) ∨
      (immField w = 0x41 ∧ ∃ d x o, i = .atomicFetchOr64 d x o) ∨
      (immField w = 0x50 ∧ ∃ d x o, i = .atomicAnd64 d x o) ∨
      (immField w = 0x51 ∧ ∃ d x o, i = .atomicFetchAnd64 d x o) ∨
      (immField w = 0xa0 ∧ ∃ d x o, i = .atomicXor64 d x o) ∨
      (immField w = 0xa1 ∧ ∃ d x o, i = .atomicFetchXor64 d x o) ∨
      (immField w = 0xe1 ∧ ∃ d x o, i = .atomicXchg64 d x o) ∨
      (immField w = 0xf1 ∧ ∃ d x o, i = .atomicCmpxchg64 d x o))

/-- O18. An instruction is wide if and only if its opcode is 0x18. Rules R75. A slot that decodes is a wide
instruction (lddw, two slots) exactly if its opcode is 0x18; every other valid opcode is an instruction of one slot. -/
def Obligations.WideByOpcode : Prop :=
  ∀ (p : Params) (w : Word) (second : Option Word) (i : Instr), decode p w second = .ok i →
    (opcodeField w = 0x18 ↔ ∃ d v, i = .lddw d v) ∧
    (opcodeField w = 0x18 → (encode p i).length = 2 ∧ slotCount i = 2) ∧
    (opcodeField w ≠ 0x18 → (encode p i).length = 1 ∧ slotCount i = 1)

/-- O19. The atomic forms that do not exist are refused. The byte and half word atomics, BPF_ATOMIC in the classes
BPF_ST, BPF_LD and BPF_LDX, and every imm that is none of the ten operations under 0xc3 or 0xdb are refused at
decode. From 44_atomic.md R276; 44_atomic.md R273; 30_encoding.md R88. -/
def Obligations.NoOtherAtomics : Prop :=
  ∀ (p : Params) (w : Word) (second : Option Word),
    (opcodeField w ∈ ([0xcb, 0xd3, 0xc2, 0xca, 0xd2, 0xda, 0xc0, 0xc8, 0xd0, 0xd8, 0xc1, 0xc9, 0xd1, 0xd9] :
      List (BitVec 8)) → ∃ r, decode p w second = .error r) ∧
    (opcodeField w = 0xc3 ∨ opcodeField w = 0xdb →
      immField w ∉ ([0x00, 0x01, 0x40, 0x41, 0x50, 0x51, 0xa0, 0xa1, 0xe1, 0xf1] : List Imm) →
      ∃ r, decode p w second = .error r)

/-- O20. Decoding what is encoded gives the instruction back. For every well-formed instruction with every operand,
under every value of the parameters, the first slot of its encoding, followed by the rest of it and by anything,
decodes to that instruction. From 30_encoding.md R71; 30_encoding.md R86; 30_encoding.md R90; 45_imm64.md R300. -/
def Obligations.DecodeEncode : Prop :=
  ∀ (p : Params) (i : Instr) (tail : List Word), i.WellFormed p →
    ∃ w rest, encode p i = w :: rest ∧ decode p w (rest ++ tail).head? = .ok i

/-- O21. Encoding what is decoded gives the slots back. Whatever slots decode to an instruction, its encoding under
the same parameters is those very slots: no bit of a slot is dropped, and every instruction has one encoding. From
30_encoding.md R71; 30_encoding.md R73; 30_encoding.md R86; 45_imm64.md R300. -/
def Obligations.EncodeDecode : Prop :=
  ∀ (p : Params) (w : Word) (second : Option Word) (i : Instr), decode p w second = .ok i →
    encode p i = w :: (if opcodeField w = 0x18 then second.toList else [])

/-- O22. The decoder answers well-formed instructions only. An instruction that the decoder answers does not write
R10, is admitted by the version, and is a form of BPF_NEG that the parameter admits. From 30_encoding.md R91;
10_state.md R23; 44_atomic.md R271; 40_alu.md R117. -/
def Obligations.DecodedWellFormed : Prop :=
  ∀ (p : Params) (w : Word) (second : Option Word) (i : Instr), decode p w second = .ok i →
    i.WellFormed p ∧ .r10 ∉ i.written ∧ (p.isaVersion = .v1 → i.version ≠ some .v3) ∧
    (p.negSemantics = .twosComplement → i.isExtraNegForm = false)

/-- O23. A program that passes the load-time check never raises IllegalInstruction. If every slot of the program
that starts an instruction is well-formed, then a fetch in any state with that program and those parameters fails
only with PcOutOfRange(pc). From 30_encoding.md R90. -/
def Obligations.LoadCheckSound : Prop :=
  ∀ (s : State) (f : Fault), loadCheck s.params s.program = true → fetch s = .error f → f = .pcOutOfRange s.pc

/-- O24. A register reads back what was written, the others are unchanged, R10 is read-only. Writing a register
other than R10 makes it read as the value written and leaves every other register alone; R10 keeps its value;
reading a register that holds novalue raises UninitRegister. That the operation leaves R10 alone is the model's
convention (log entry 11); no well-formed instruction uses it. From 00_scope.md R9; 10_state.md R20; 10_state.md
R23; 10_state.md R26. -/
def Obligations.RegisterFile : Prop :=
  ∀ (s : State) (r q : Reg) (v : Word),
    (r ≠ .r10 → readReg (writeReg s r v) r = .ok v) ∧
    (q ≠ r → (writeReg s r v).regs.get q = s.regs.get q) ∧
    writeReg s .r10 v = s ∧
    (s.regs.get r = none → readReg s r = .error (.uninitRegister r))

/-- O25. An instruction changes only the registers that R25 lists for it. Whatever instruction runs in whatever
state, every register that is not in its list of written registers (R25) holds after it what it held before. From
10_state.md R25. -/
def Obligations.RegisterFrame : Prop :=
  ∀ (i : Instr) (s t : State) (r : Reg), exec i s = .next t → r ∉ i.written → t.regs.get r = s.regs.get r

/-- O26. An instruction changes no byte of memory but those it stores to. For every instruction but call: one that
stores nothing leaves every byte of memory; a store or atomic operation leaves every byte outside the n bytes at
x[base] + sext(offset), and, if its base holds novalue, all of them. From 40_alu.md R110; 42_jump.md R196;
43_load_store.md R253; 44_atomic.md R270; 46_legacy_packet.md R305. -/
def Obligations.MemoryFrame : Prop :=
  ∀ (i : Instr) (s t : State), (∀ n, i ≠ .call n) → exec i s = .next t →
    (storeTarget i = none → t.mem = s.mem) ∧
    (∀ base off z, storeTarget i = some (base, off, z) →
      (s.regs.get base = none → t.mem = s.mem) ∧
      (∀ b, s.regs.get base = some b → ∀ a : Nat,
        a < (b + off.signExtend 64).toNat ∨ (b + off.signExtend 64).toNat + z.bytes ≤ a →
        readByte t.mem a = readByte s.mem a))

/-- O27. Where pc goes. Whatever instruction runs while the run goes on: if the run goes on after it, pc is advanced
by the slots of the instruction, or, for a jump, is the next slot or the target; if the run ended, pc is unchanged.
From 10_state.md R29; 42_jump.md R191; 42_jump.md R245; 60_exceptions.md R321; 60_exceptions.md R334. -/
def Obligations.PcRule : Prop :=
  ∀ (i : Instr) (s t : State), s.outcome = .running → exec i s = .next t →
    (t.outcome = .running → jumpOffset i = none → t.pc = s.pc + slotCount i) ∧
    (∀ off, t.outcome = .running → jumpOffset i = some off →
      t.pc = s.pc + 1 ∨ t.pc = s.pc + 1 + off.toInt) ∧
    (t.outcome ≠ .running → t.pc = s.pc)

/-- O28. Only faults, exit and the legacy loads end a run. Whatever instruction runs: the outcome is unchanged, or
the instruction raised a fault and changed nothing else, or it is exit with R0 readable, or a legacy packet load
that aborts and changes nothing else. From 60_exceptions.md R320; 60_exceptions.md R334; 42_jump.md R245. -/
def Obligations.OutcomeSources : Prop :=
  ∀ (i : Instr) (s t : State), exec i s = .next t →
    t.outcome = s.outcome ∨ (∃ f, t = { s with outcome := .fault f }) ∨
    (i = .exit ∧ ∃ v, s.regs.get .r0 = some v ∧ t = { s with outcome := .exit v }) ∨
    (faultKind i = .packet ∧ t = { s with outcome := .abort })

/-- O29. Each fault comes only from the instructions R322 names. A fault that an instruction raises is
IllegalInstruction for an ill-formed instruction, UninitRegister, or one that R322 gives to its kind: DivideByZero
to div and mod, ShiftOutOfRange to the shifts, the memory faults to loads, stores, atomics and called functions,
UnknownFunction and HelperFault to call, PacketContext to the legacy loads. From 60_exceptions.md R322. -/
def Obligations.FaultSources : Prop :=
  ∀ (i : Instr) (s t : State) (f : Fault), exec i s = .next t → t.outcome = .fault f → s.outcome ≠ .fault f →
    (∃ r w, f = .illegalInstruction r w ∧ ¬ i.WellFormed s.params) ∨ (faultKind i).admits f = true

/-- O30. The first unreadable register in the order of R323 is the one reported. For every well-formed instruction:
if the registers it reads are, in their order, pre, r, post, all of pre hold values and r holds novalue, it raises
UninitRegister(r), before any other fault. From 10_state.md R25; 10_state.md R26; 60_exceptions.md R323. -/
def Obligations.ReadOrder : Prop :=
  ∀ (i : Instr) (s : State) (pre : List Reg) (r : Reg) (post : List Reg), i.WellFormed s.params →
    i.reads s.params = pre ++ r :: post → (∀ q ∈ pre, (s.regs.get q).isSome = true) → s.regs.get r = none →
    exec i s = .next (raise s (.uninitRegister r))

/-- O31. An ill-formed instruction raises IllegalInstruction and has no effect. Every term of Instr that is
ill-formed under the parameters (a write to R10, a v3 atomic under v1, a form of BPF_NEG that twos_complement does
not have) raises IllegalInstruction before anything else. Executing a term that the decoder never answers is the
model's convention (log entry 11). From 30_encoding.md R91; 60_exceptions.md R323; log entry 11. -/
def Obligations.IllFormedTaken : Prop :=
  ∀ (i : Instr) (s : State) (r : IllFormed), i.illFormed? s.params = some r →
    ∃ w, exec i s = .next (raise s (.illegalInstruction r w))

/-- O32. add, sub and mul in all forms. Rules R120, R121, R122, R123, R124, R125, R126, R127, R128, R129, R130,
R131. Each of the twelve instructions: which slots decode to it and which are refused; with readable operands the
destination receives the sum, difference or product modulo 2^W, zero-extended for W = 32, pc advances by 1 and
nothing else changes; a register that holds novalue raises UninitRegister, the destination first. -/
def Obligations.AddSubMulModuloWidth : Prop :=
  TotalOp 0x04 0x0c 0x07 0x0f .add32K .add32X .add64K .add64X
    (fun a b => BitVec.ofNat _ (a.toNat + b.toNat)) ∧
  TotalOp 0x14 0x1c 0x17 0x1f .sub32K .sub32X .sub64K .sub64X
    (fun a b => BitVec.ofInt _ ((a.toNat : Int) - b.toNat)) ∧
  TotalOp 0x24 0x2c 0x27 0x2f .mul32K .mul32X .mul64K .mul64X
    (fun a b => BitVec.ofNat _ (a.toNat * b.toNat))

/-- O33. or, and and xor in all forms. Rules R136, R137, R138, R139, R140, R141, R142, R143, R160, R161, R162, R163.
Each of the twelve instructions: which slots decode to it and which are refused; with readable operands bit k of the
W-bit result is the or, and or exclusive or of bit k of the operands, zero-extended for W = 32, and nothing else
changes but pc; a register that holds novalue raises UninitRegister, the destination first. -/
def Obligations.OrAndXorBitByBit : Prop :=
  TotalOp 0x44 0x4c 0x47 0x4f .or32K .or32X .or64K .or64X
    (fun a b => BitVec.ofFnLE (fun k => a.getLsbD k || b.getLsbD k)) ∧
  TotalOp 0x54 0x5c 0x57 0x5f .and32K .and32X .and64K .and64X
    (fun a b => BitVec.ofFnLE (fun k => a.getLsbD k && b.getLsbD k)) ∧
  TotalOp 0xa4 0xac 0xa7 0xaf .xor32K .xor32X .xor64K .xor64X
    (fun a b => BitVec.ofFnLE (fun k => Bool.xor (a.getLsbD k) (b.getLsbD k)))

/-- O34. div and mod in all forms, with both values of DIV_BY_ZERO. Rules R132, R133, R134, R135, R156, R157, R158,
R159. Each of the eight instructions: which slots decode to it and which are refused; with a divisor that is not
zero the destination receives the unsigned quotient or remainder; with a zero divisor it raises DivideByZero under
DIV_BY_ZERO = fault, and under zero_and_keep gives 0 (div) or A (mod); 32-bit results are zero-extended; nothing
else changes but pc; novalue raises UninitRegister, the destination first. -/
def Obligations.DivModUnsigned : Prop :=
  PartialOp 0x34 0x3c 0x37 0x3f .div32K .div32X .div64K .div64X
    (fun b => b.toNat ≠ 0) (fun a b => BitVec.ofNat _ (a.toNat / b.toNat))
    (fun p => p.divByZero = .fault) .divideByZero (fun a b => if b.toNat = 0 then 0 else a) ∧
  PartialOp 0x94 0x9c 0x97 0x9f .mod32K .mod32X .mod64K .mod64X
    (fun b => b.toNat ≠ 0) (fun a b => BitVec.ofNat _ (a.toNat % b.toNat))
    (fun p => p.divByZero = .fault) .divideByZero (fun a b => if b.toNat = 0 then a else 0)

/-- O35. lsh, rsh and arsh in all forms, with both values of SHIFT_OVERFLOW. Rules R144, R145, R146, R147, R148,
R149, R150, R151, R168, R169, R170, R171. Each of the twelve instructions: which slots decode to it and which are
refused; with an amount n = u(B) below W the destination receives A * 2^n modulo 2^W, u(A) / 2^n, or s_W(A) / 2^n
rounded down; an amount not below W raises ShiftOutOfRange under SHIFT_OVERFLOW = fault and is taken modulo W under
mask; 32-bit results are zero-extended; nothing else changes but pc; novalue raises UninitRegister, the destination
first. -/
def Obligations.ShiftsByAmount : Prop :=
  PartialOp 0x64 0x6c 0x67 0x6f .lsh32K .lsh32X .lsh64K .lsh64X
    (fun {w} b => b.toNat < w) (fun {w} a b => BitVec.ofNat w (a.toNat * 2 ^ b.toNat))
    (fun p => p.shiftOverflow = .fault) .shiftOutOfRange (fun {w} a b => BitVec.ofNat w (a.toNat * 2 ^ (b.toNat % w))) ∧
  PartialOp 0x74 0x7c 0x77 0x7f .rsh32K .rsh32X .rsh64K .rsh64X
    (fun {w} b => b.toNat < w) (fun {w} a b => BitVec.ofNat w (a.toNat / 2 ^ b.toNat))
    (fun p => p.shiftOverflow = .fault) .shiftOutOfRange (fun {w} a b => BitVec.ofNat w (a.toNat / 2 ^ (b.toNat % w))) ∧
  PartialOp 0xc4 0xcc 0xc7 0xcf .arsh32K .arsh32X .arsh64K .arsh64X
    (fun {w} b => b.toNat < w) (fun {w} a b => BitVec.ofInt w (a.toInt / 2 ^ b.toNat))
    (fun p => p.shiftOverflow = .fault) .shiftOutOfRange (fun {w} a b => BitVec.ofInt w (a.toInt / 2 ^ (b.toNat % w)))

/-- O36. mov in all forms. Rules R164, R165, R166, R167. The four instructions: which slots decode to them and which
are refused; the destination, which is not read and may hold novalue, receives the source operand, the 32-bit one
zero-extended; nothing else changes but pc; an unreadable source register raises UninitRegister. -/
def Obligations.MovStoresSource : Prop :=
  (CodedAluK 0xb4 .mov32K ∧
    ∀ s dst imm, dst ≠ .r10 → exec (.mov32K dst imm) s = .next (put s dst (BitVec.ofNat 64 imm.toNat))) ∧
  (CodedAluX 0xbc .mov32X ∧
    (∀ s dst src (b : Word), dst ≠ .r10 → s.regs.get src = some b →
      exec (.mov32X dst src) s = .next (put s dst (BitVec.ofNat 64 (b.toNat % 2 ^ 32)))) ∧
    (∀ s dst src, dst ≠ .r10 → s.regs.get src = none →
      exec (.mov32X dst src) s = .next (raise s (.uninitRegister src)))) ∧
  (CodedAluK 0xb7 .mov64K ∧
    ∀ s dst imm, dst ≠ .r10 → exec (.mov64K dst imm) s = .next (put s dst (BitVec.ofInt 64 imm.toInt))) ∧
  (CodedAluX 0xbf .mov64X ∧
    (∀ s dst src b, dst ≠ .r10 → s.regs.get src = some b → exec (.mov64X dst src) s = .next (put s dst b)) ∧
    (∀ s dst src, dst ≠ .r10 → s.regs.get src = none →
      exec (.mov64X dst src) s = .next (raise s (.uninitRegister src))))

/-- O37. neg in all forms, with both values of NEG_SEMANTICS. Under source_literal each of the four instructions
stores the bitwise complement of its source operand and does not read the destination; under twos_complement the
immediate forms with imm = 0 store minus the destination, and every other form is refused at decode; 32-bit results
are zero-extended; nothing else changes but pc. From 40_alu.md R117; 40_alu.md R152; 40_alu.md R153; 40_alu.md R154;
40_alu.md R155. -/
def Obligations.NegBothReadings : Prop :=
  (∀ p second dst imm, dst ≠ .r10 → p.negSemantics = .sourceLiteral ∨ imm = 0 →
    decode p (packSlot 0x84 dst.field 0 0 imm) second = .ok (.neg32K dst imm) ∧
    decode p (packSlot 0x87 dst.field 0 0 imm) second = .ok (.neg64K dst imm)) ∧
  (∀ p second dst src, dst ≠ .r10 → p.negSemantics = .sourceLiteral →
    decode p (packSlot 0x8c dst.field src.field 0 0) second = .ok (.neg32X dst src) ∧
    decode p (packSlot 0x8f dst.field src.field 0 0) second = .ok (.neg64X dst src)) ∧
  (∀ p second w, p.negSemantics = .twosComplement →
    (opcodeField w = 0x8c ∨ opcodeField w = 0x8f ∨
      (opcodeField w = 0x84 ∨ opcodeField w = 0x87) ∧ immField w ≠ 0) → ∃ r, decode p w second = .error r) ∧
  (∀ op ∈ ([0x84, 0x87] : List (BitVec 8)),
    Refuses op (fun w => srcField w ≠ 0 ∨ offField w ≠ 0 ∨ 10 ≤ (dstField w).toNat)) ∧
  (∀ op ∈ ([0x8c, 0x8f] : List (BitVec 8)), Refuses op (fun w => offField w ≠ 0 ∨ immField w ≠ 0 ∨
    10 ≤ (dstField w).toNat ∨ 10 < (srcField w).toNat)) ∧
  (∀ s dst imm, dst ≠ .r10 → s.params.negSemantics = .sourceLiteral →
    exec (.neg32K dst imm) s = .next (put s dst (BitVec.ofNat 64 (2 ^ 32 - 1 - imm.toNat))) ∧
    exec (.neg64K dst imm) s = .next (put s dst (BitVec.ofInt 64 (-1 - imm.toInt)))) ∧
  (∀ s dst src b, dst ≠ .r10 → s.params.negSemantics = .sourceLiteral → s.regs.get src = some b →
    exec (.neg32X dst src) s = .next (put s dst (BitVec.ofNat 64 (2 ^ 32 - 1 - b.toNat % 2 ^ 32))) ∧
    exec (.neg64X dst src) s = .next (put s dst (BitVec.ofNat 64 (2 ^ 64 - 1 - b.toNat)))) ∧
  (∀ s dst src, dst ≠ .r10 → s.params.negSemantics = .sourceLiteral → s.regs.get src = none →
    exec (.neg32X dst src) s = .next (raise s (.uninitRegister src)) ∧
    exec (.neg64X dst src) s = .next (raise s (.uninitRegister src))) ∧
  (∀ s dst a, dst ≠ .r10 → s.params.negSemantics = .twosComplement → s.regs.get dst = some a →
    exec (.neg32K dst 0) s = .next (put s dst (BitVec.ofNat 64 ((2 ^ 32 - a.toNat % 2 ^ 32) % 2 ^ 32))) ∧
    exec (.neg64K dst 0) s = .next (put s dst (BitVec.ofNat 64 (2 ^ 64 - a.toNat)))) ∧
  (∀ s dst, dst ≠ .r10 → s.params.negSemantics = .twosComplement → s.regs.get dst = none →
    exec (.neg32K dst 0) s = .next (raise s (.uninitRegister dst)) ∧
    exec (.neg64K dst 0) s = .next (raise s (.uninitRegister dst)))

/-- O38. The six byte swaps, on a host of either byte order. Rules R183, R184, R185, R186, R187, R188. Each byte
swap: which slots decode to it and which are refused; the low N bits of the destination, as they stand where the
host has the target order and with their bytes reversed otherwise, the rest of the register zero; nothing else
changes but pc; novalue raises UninitRegister. -/
def Obligations.ByteSwaps : Prop :=
  SwapRule 0xd4 16 .le16 .little 2 ∧
  SwapRule 0xd4 32 .le32 .little 4 ∧
  SwapRule 0xd4 64 .le64 .little 8 ∧
  SwapRule 0xdc 16 .be16 .big 2 ∧
  SwapRule 0xdc 32 .be32 .big 4 ∧
  SwapRule 0xdc 64 .be64 .big 8

/-- O39. ja. Rules R199. Which slots decode to ja and which are refused; it leaves pc at pc + 1 + s_16(offset),
whatever the target is, and changes nothing else; a target that names no instruction faults at the next step, not at
the jump. -/
def Obligations.JumpAlways : Prop :=
  (∀ p second off, decode p (packSlot 0x05 0 0 off 0) second = .ok (.ja off)) ∧
  Refuses 0x05 (fun w => dstField w ≠ 0 ∨ srcField w ≠ 0 ∨ immField w ≠ 0) ∧
  (∀ s off, exec (.ja off) s = .next (goTo s off)) ∧
  (∀ s off, s.outcome = .running →
    s.pc + 1 + off.toInt < 0 ∨ (s.program.length : Int) ≤ s.pc + 1 + off.toInt ∨
      isSecondSlot s.program (s.pc + 1 + off.toInt).toNat = true →
    step (goTo s off) = .next (raise (goTo s off) (.pcOutOfRange (s.pc + 1 + off.toInt)))) ∧
  (∀ op ∈ ([0x0d, 0x06, 0x0e] : List (BitVec 8)), Refuses op (fun _ => True))

/-- O40. The eleven conditional jumps on 64 bits with an immediate. Rules R200, R204, R208, R212, R216, R220, R224,
R228, R232, R236, R240. Each of the eleven jumps: which slots decode to it and which are refused; with readable
operands pc goes to pc + 1 + s_16(offset) where the condition of its code holds (unsigned, signed, equality, common
bits) and to pc + 1 where it does not, and nothing else changes; an unreadable register raises UninitRegister, taken
or not. -/
def Obligations.CondJumps64K : Prop :=
  JumpK64 0x15 .jeqK (fun a b => a = b) ∧
  JumpK64 0x25 .jgtK (fun a b => b.toNat < a.toNat) ∧
  JumpK64 0x35 .jgeK (fun a b => b.toNat ≤ a.toNat) ∧
  JumpK64 0x45 .jsetK (fun a b => ∃ k, a.getLsbD k = true ∧ b.getLsbD k = true) ∧
  JumpK64 0x55 .jneK (fun a b => a ≠ b) ∧
  JumpK64 0x65 .jsgtK (fun a b => b.toInt < a.toInt) ∧
  JumpK64 0x75 .jsgeK (fun a b => b.toInt ≤ a.toInt) ∧
  JumpK64 0xa5 .jltK (fun a b => a.toNat < b.toNat) ∧
  JumpK64 0xb5 .jleK (fun a b => a.toNat ≤ b.toNat) ∧
  JumpK64 0xc5 .jsltK (fun a b => a.toInt < b.toInt) ∧
  JumpK64 0xd5 .jsleK (fun a b => a.toInt ≤ b.toInt)

/-- O41. The eleven conditional jumps on 64 bits with a register. Rules R201, R205, R209, R213, R217, R221, R225,
R229, R233, R237, R241. Each of the eleven jumps: which slots decode to it and which are refused; with readable
operands pc goes to pc + 1 + s_16(offset) where the condition of its code holds (unsigned, signed, equality, common
bits) and to pc + 1 where it does not, and nothing else changes; an unreadable register raises UninitRegister, taken
or not, the destination examined first. -/
def Obligations.CondJumps64X : Prop :=
  JumpX64 0x1d .jeqX (fun a b => a = b) ∧
  JumpX64 0x2d .jgtX (fun a b => b.toNat < a.toNat) ∧
  JumpX64 0x3d .jgeX (fun a b => b.toNat ≤ a.toNat) ∧
  JumpX64 0x4d .jsetX (fun a b => ∃ k, a.getLsbD k = true ∧ b.getLsbD k = true) ∧
  JumpX64 0x5d .jneX (fun a b => a ≠ b) ∧
  JumpX64 0x6d .jsgtX (fun a b => b.toInt < a.toInt) ∧
  JumpX64 0x7d .jsgeX (fun a b => b.toInt ≤ a.toInt) ∧
  JumpX64 0xad .jltX (fun a b => a.toNat < b.toNat) ∧
  JumpX64 0xbd .jleX (fun a b => a.toNat ≤ b.toNat) ∧
  JumpX64 0xcd .jsltX (fun a b => a.toInt < b.toInt) ∧
  JumpX64 0xdd .jsleX (fun a b => a.toInt ≤ b.toInt)

/-- O42. The eleven conditional jumps on 32 bits with an immediate. Rules R202, R206, R210, R214, R218, R222, R226,
R230, R234, R238, R242. Each of the eleven jumps: which slots decode to it and which are refused; with readable
operands pc goes to pc + 1 + s_16(offset) where the condition of its code holds (unsigned, signed, equality, common
bits) and to pc + 1 where it does not, and nothing else changes; an unreadable register raises UninitRegister, taken
or not. -/
def Obligations.CondJumps32K : Prop :=
  JumpK32 0x16 .jeq32K (fun a b => a = b) ∧
  JumpK32 0x26 .jgt32K (fun a b => b.toNat < a.toNat) ∧
  JumpK32 0x36 .jge32K (fun a b => b.toNat ≤ a.toNat) ∧
  JumpK32 0x46 .jset32K (fun a b => ∃ k, a.getLsbD k = true ∧ b.getLsbD k = true) ∧
  JumpK32 0x56 .jne32K (fun a b => a ≠ b) ∧
  JumpK32 0x66 .jsgt32K (fun a b => b.toInt < a.toInt) ∧
  JumpK32 0x76 .jsge32K (fun a b => b.toInt ≤ a.toInt) ∧
  JumpK32 0xa6 .jlt32K (fun a b => a.toNat < b.toNat) ∧
  JumpK32 0xb6 .jle32K (fun a b => a.toNat ≤ b.toNat) ∧
  JumpK32 0xc6 .jslt32K (fun a b => a.toInt < b.toInt) ∧
  JumpK32 0xd6 .jsle32K (fun a b => a.toInt ≤ b.toInt)

/-- O43. The eleven conditional jumps on 32 bits with a register. Rules R203, R207, R211, R215, R219, R223, R227,
R231, R235, R239, R243. Each of the eleven jumps: which slots decode to it and which are refused; with readable
operands pc goes to pc + 1 + s_16(offset) where the condition of its code holds (unsigned, signed, equality, common
bits) and to pc + 1 where it does not, and nothing else changes; an unreadable register raises UninitRegister, taken
or not, the destination examined first. -/
def Obligations.CondJumps32X : Prop :=
  JumpX32 0x1e .jeq32X (fun a b => a = b) ∧
  JumpX32 0x2e .jgt32X (fun a b => b.toNat < a.toNat) ∧
  JumpX32 0x3e .jge32X (fun a b => b.toNat ≤ a.toNat) ∧
  JumpX32 0x4e .jset32X (fun a b => ∃ k, a.getLsbD k = true ∧ b.getLsbD k = true) ∧
  JumpX32 0x5e .jne32X (fun a b => a ≠ b) ∧
  JumpX32 0x6e .jsgt32X (fun a b => b.toInt < a.toInt) ∧
  JumpX32 0x7e .jsge32X (fun a b => b.toInt ≤ a.toInt) ∧
  JumpX32 0xae .jlt32X (fun a b => a.toNat < b.toNat) ∧
  JumpX32 0xbe .jle32X (fun a b => a.toNat ≤ b.toNat) ∧
  JumpX32 0xce .jslt32X (fun a b => a.toInt < b.toInt) ∧
  JumpX32 0xde .jsle32X (fun a b => a.toInt ≤ b.toInt)

/-- O44. call, and what a called function does. Which slots decode to call and which are refused. A number that is
no function's raises UnknownFunction. Where the function answers a value and a state, R0 receives the value, R1 to
R5 are left novalue, R6 to R10 are as before the call, pc advances by 1 and memory is as the function left it; where
the function faults, the call raises that fault. A function first reads the argument registers it always reads: one
that holds novalue raises UninitRegister of the lowest such, the registers it does not read may hold novalue. It
then runs its body on these values, the free value of the model for one outside the model; a function that only
returns a value completes. A load answers what MemRead answers, a store leaves the state that MemWrite gives, what
they raise is raised, further argument registers may be read as values and memory decide, and a failure raises
HelperFault(number, info). The form of functions (lists of plain data, the language of their bodies, the order of
reads chosen by value) and the 64-bit info are the model's choices (log entries 6 and 19), not the spec's. From
42_jump.md R244; 42_jump.md R246; 10_state.md R24; 20_memory.md R59; 60_exceptions.md R322; 60_exceptions.md R323;
92_eei_decisions.md D15; log entries 6, 19. -/
def Obligations.CallRunsHelper : Prop :=
  (∀ p second imm, decode p (packSlot 0x85 0 0 0 imm) second = .ok (.call imm)) ∧
  Refuses 0x85 (fun w => dstField w ≠ 0 ∨ srcField w ≠ 0 ∨ offField w ≠ 0) ∧
  (∀ s n, findHelper s.helpers n = none → exec (.call n) s = .next (raise s (.unknownFunction n))) ∧
  (∀ s n h v t, findHelper s.helpers n = some h → applyHelper h s = .ok (v, t) →
    exec (.call n) s = .next (putClobber t v) ∧ t.pc = s.pc ∧ t.outcome = s.outcome ∧ t.regs = s.regs) ∧
  (∀ s n h f, findHelper s.helpers n = some h → applyHelper h s = .error f →
    exec (.call n) s = .next (raise s f)) ∧
  (∀ s n h e args, findHelper s.helpers n = some h → h.kind = .script (.ret e) →
    (argRegs h.reads).map s.regs.get = args.map some →
    exec (.call n) s = .next (putClobber s (evalHelper args e))) ∧
  (∀ s n h pre r post, findHelper s.helpers n = some h → argRegs h.reads = pre ++ r :: post →
    (∀ q ∈ pre, (s.regs.get q).isSome = true) → s.regs.get r = none →
    exec (.call n) s = .next (raise s (.uninitRegister r))) ∧
  (∀ (regs : List Reg) (r : Reg), r ∈ argRegs regs ↔ r ∈ regs ∧ r ∈ [Reg.r1, .r2, .r3, .r4, .r5]) ∧
  (∀ s h args, (argRegs h.reads).map s.regs.get = args.map some →
    (∀ body, h.kind = .script body → applyHelper h s = runHelper h.number body args s) ∧
    (h.kind = .external →
      applyHelper h s = runHelper h.number (Config.externalHelper h.number args s.mem) args s)) ∧
  HelperActions

/-- O45. exit. Which slots decode to exit and which are refused; with a value v in R0 the outcome becomes Exit(v),
registers, memory and pc keep their values, and the host receives v; with novalue in R0 it raises UninitRegister(0).
From 42_jump.md R245; 70_reset_and_hazards.md R355; 92_eei_decisions.md D16. -/
def Obligations.ExitReturnsR0 : Prop :=
  (∀ p second, decode p (packSlot 0x95 0 0 0 0) second = .ok .exit) ∧
  Refuses 0x95 (fun w => dstField w ≠ 0 ∨ srcField w ≠ 0 ∨ offField w ≠ 0 ∨ immField w ≠ 0) ∧
  (∀ s v, s.regs.get .r0 = some v → exec .exit s = .next { s with outcome := .exit v } ∧
    hostResult { s with outcome := .exit v } = some (.value v)) ∧
  (∀ s, s.regs.get .r0 = none → exec .exit s = .next (raise s (.uninitRegister .r0)))

/-- O46. ldxw, ldxh, ldxb, ldxdw. Rules R254, R255, R256, R257. Each load: which slots decode to it and which are
refused; with a readable base the destination, which is not read, receives the value of MemRead at x[src] +
sext(offset), below 2^(8n), and nothing else changes but pc (and what MemRead leaves); what MemRead raises is
raised; an unreadable base raises UninitRegister. -/
def Obligations.LoadsReadMemory : Prop :=
  LoadRule 0x61 .ldxw .w ∧
  LoadRule 0x69 .ldxh .h ∧
  LoadRule 0x71 .ldxb .b ∧
  LoadRule 0x79 .ldxdw .dw

/-- O47. stw, sth, stb, stdw. Rules R258, R259, R260, R261. Each store of an immediate: which slots decode to it and
which are refused; with a readable base the low 8n bits of the sign-extended immediate are stored by MemWrite at
x[dst] + sext(offset), no register is written, pc advances by 1; what MemWrite raises is raised; an unreadable base
raises UninitRegister. -/
def Obligations.StoresImmWriteMemory : Prop :=
  StoreImmRule 0x62 .stw .w ∧
  StoreImmRule 0x6a .sth .h ∧
  StoreImmRule 0x72 .stb .b ∧
  StoreImmRule 0x7a .stdw .dw

/-- O48. stxw, stxh, stxb, stxdw. Rules R262, R263, R264, R265. Each store of a register: which slots decode to it
and which are refused; with readable registers the low 8n bits of the source are stored by MemWrite at x[dst] +
sext(offset), no register is written, pc advances by 1; what MemWrite raises is raised; the base is examined before
the value. -/
def Obligations.StoresRegWriteMemory : Prop :=
  StoreRegRule 0x63 .stxw .w ∧
  StoreRegRule 0x6b .stxh .h ∧
  StoreRegRule 0x73 .stxb .b ∧
  StoreRegRule 0x7b .stxdw .dw

/-- O49. The ten atomic operations on 32 bits. Rules R277, R278, R279, R280, R281, R282, R283, R284, R285, R286.
Each operation: which slots decode to it under which version and which are refused; with readable registers memory
at x[dst] + sext(offset) is updated in one step (the old value read, the new one stored) with the sum, or, and,
exclusive or, the operand, or, for compare and exchange, the operand where the old value equals R0; the fetching
forms then put the zero-extended old value in the source register, compare and exchange in R0, the others write no
register; the faults of the update are raised in its order; unreadable registers raise UninitRegister in the order
destination, source, R0. -/
def Obligations.Atomics32 : Prop :=
  AtomicRule 0xc3 0x00 .atomicAdd32 .v1 .w (onLow (fun a b => a + b)) false ∧
  AtomicRule 0xc3 0x01 .atomicFetchAdd32 .v3 .w (onLow (fun a b => a + b)) true ∧
  AtomicRule 0xc3 0x40 .atomicOr32 .v3 .w (onLow (fun a b => a ||| b)) false ∧
  AtomicRule 0xc3 0x41 .atomicFetchOr32 .v3 .w (onLow (fun a b => a ||| b)) true ∧
  AtomicRule 0xc3 0x50 .atomicAnd32 .v3 .w (onLow (fun a b => a &&& b)) false ∧
  AtomicRule 0xc3 0x51 .atomicFetchAnd32 .v3 .w (onLow (fun a b => a &&& b)) true ∧
  AtomicRule 0xc3 0xa0 .atomicXor32 .v3 .w (onLow (fun a b => a ^^^ b)) false ∧
  AtomicRule 0xc3 0xa1 .atomicFetchXor32 .v3 .w (onLow (fun a b => a ^^^ b)) true ∧
  AtomicRule 0xc3 0xe1 .atomicXchg32 .v3 .w (onLow (fun _ b => b)) true ∧
  CompareRule 0xc3 .atomicCmpxchg32 .w
    (fun old r v => if old.toNat % 2 ^ 32 = r.toNat % 2 ^ 32 then v else old)

/-- O50. The ten atomic operations on 64 bits. Rules R287, R288, R289, R290, R291, R292, R293, R294, R295, R296.
Each operation: which slots decode to it under which version and which are refused; with readable registers memory
at x[dst] + sext(offset) is updated in one step (the old value read, the new one stored) with the sum, or, and,
exclusive or, the operand, or, for compare and exchange, the operand where the old value equals R0; the fetching
forms then put the zero-extended old value in the source register, compare and exchange in R0, the others write no
register; the faults of the update are raised in its order; unreadable registers raise UninitRegister in the order
destination, source, R0. -/
def Obligations.Atomics64 : Prop :=
  AtomicRule 0xdb 0x00 .atomicAdd64 .v1 .dw (fun a b => a + b) false ∧
  AtomicRule 0xdb 0x01 .atomicFetchAdd64 .v3 .dw (fun a b => a + b) true ∧
  AtomicRule 0xdb 0x40 .atomicOr64 .v3 .dw (fun a b => a ||| b) false ∧
  AtomicRule 0xdb 0x41 .atomicFetchOr64 .v3 .dw (fun a b => a ||| b) true ∧
  AtomicRule 0xdb 0x50 .atomicAnd64 .v3 .dw (fun a b => a &&& b) false ∧
  AtomicRule 0xdb 0x51 .atomicFetchAnd64 .v3 .dw (fun a b => a &&& b) true ∧
  AtomicRule 0xdb 0xa0 .atomicXor64 .v3 .dw (fun a b => a ^^^ b) false ∧
  AtomicRule 0xdb 0xa1 .atomicFetchXor64 .v3 .dw (fun a b => a ^^^ b) true ∧
  AtomicRule 0xdb 0xe1 .atomicXchg64 .v3 .dw (fun _ b => b) true ∧
  CompareRule 0xdb .atomicCmpxchg64 .dw
    (fun old r v => if old = r then v else old)

/-- O51. lddw, under both layouts. Under source_literal two slots with a first imm of zero decode to lddw with the
second slot as imm64; under split_halves two slots whose second has a zero low half decode to lddw with imm64 the
second slot's imm above the first one's. Other slots with opcode 0x18, and one without a second slot, are refused.
It reads no register and no memory, stores imm64 in the destination and advances pc by 2. Slots well-formed under
both layouts give the same instruction. From 45_imm64.md R301; 45_imm64.md R300. -/
def Obligations.LoadImm64 : Prop :=
  (∀ p dst imm64, dst ≠ .r10 → p.lddwLayout = .sourceLiteral →
    decode p (packSlot 0x18 dst.field 0 0 0) (some imm64) = .ok (.lddw dst imm64)) ∧
  (∀ p dst lo hi, dst ≠ .r10 → p.lddwLayout = .splitHalves →
    decode p (packSlot 0x18 dst.field 0 0 lo) (some (packSlot 0 0 0 0 hi)) =
      .ok (.lddw dst (BitVec.ofNat 64 (hi.toNat * 2 ^ 32 + lo.toNat)))) ∧
  Refuses 0x18 (fun w => srcField w ≠ 0 ∨ offField w ≠ 0 ∨ 10 ≤ (dstField w).toNat) ∧
  (∀ p w second, opcodeField w = 0x18 →
    (p.lddwLayout = .sourceLiteral ∧ immField w ≠ 0 ∨ second = none ∨
      p.lddwLayout = .splitHalves ∧ ∃ v, second = some v ∧ v.toNat % 2 ^ 32 ≠ 0) →
    ∃ r, decode p w second = .error r) ∧
  (∀ s dst imm64, dst ≠ .r10 → exec (.lddw dst imm64) s =
    .next { s with regs := s.regs.set dst (some imm64), pc := s.pc + 2 }) ∧
  (∀ p q w v i j, opcodeField w = 0x18 → p.lddwLayout = .sourceLiteral → q.lddwLayout = .splitHalves →
    decode p w (some v) = .ok i → decode q w (some v) = .ok j → i = j)

/-- O52. ldabsw, ldabsh, ldabsb. Each absolute packet load: which slots decode to it and which are refused; R6 with
novalue raises UninitRegister(6); no packet, or R6 not its designator, raises PacketContext; an offset s_32(imm)
that is negative or ends beyond the packet gives the outcome Abort and changes nothing else; otherwise R0 receives
the bytes, the first the most significant, R1 to R5 are left novalue, pc advances by 1 and nothing else changes. The
behaviour is the decision D24 of the spec, which the rule marks as its own. From 46_legacy_packet.md R306;
46_legacy_packet.md R307; 46_legacy_packet.md R308; 46_legacy_packet.md R310; 46_legacy_packet.md R311;
46_legacy_packet.md R312; 46_legacy_packet.md R313; 46_legacy_packet.md R314; 60_exceptions.md R334;
92_eei_decisions.md D24. -/
def Obligations.PacketAbsolute : Prop :=
  AbsRule 0x20 .ldabsw 4 ∧ AbsRule 0x28 .ldabsh 2 ∧ AbsRule 0x30 .ldabsb 1

/-- O53. ldindw, ldindh, ldindb. Each indirect packet load: as the absolute ones, with the offset s_64(x[src] +
sext(imm)), the sum modulo 2^64; the source register is examined after R6 and before the packet. The behaviour is
the decision D24 of the spec, which the rule marks as its own. From 46_legacy_packet.md R306; 46_legacy_packet.md
R307; 46_legacy_packet.md R308; 46_legacy_packet.md R310; 46_legacy_packet.md R311; 46_legacy_packet.md R315;
46_legacy_packet.md R316; 46_legacy_packet.md R317; 60_exceptions.md R334; 92_eei_decisions.md D24. -/
def Obligations.PacketIndirect : Prop :=
  IndRule 0x40 .ldindw 4 ∧ IndRule 0x48 .ldindh 2 ∧ IndRule 0x50 .ldindb 1

/-- O54. The checks of MemRead and MemWrite, in their order. An access that runs past 2^64, lies in no region, or
lies in one without the permission raises MemFault; one in a region with the permission, at an address that is not a
multiple of its size, raises Misaligned under MISALIGNED = fault. From 20_memory.md R41; 20_memory.md R42;
20_memory.md R43; 20_memory.md R48; 92_eei_decisions.md D20, D21. -/
def Obligations.AccessChecks : Prop :=
  ∀ (s : State) (addr : Word) (z : Size) (v : Word),
    (2 ^ 64 < addr.toNat + z.bytes ∨ (∀ r ∈ s.regions, ¬ covers r addr z) →
      memRead s addr z = .error (.memFault addr z.bytes .read) ∧
      memWrite s addr z v = .error (.memFault addr z.bytes .write)) ∧
    (regionsOk s.regions = true → ∀ r ∈ s.regions, covers r addr z →
      (r.readable = false → memRead s addr z = .error (.memFault addr z.bytes .read)) ∧
      (r.writable = false → memWrite s addr z v = .error (.memFault addr z.bytes .write)) ∧
      (addr.toNat % z.bytes ≠ 0 → s.params.misaligned = .fault →
        (r.readable = true → memRead s addr z = .error (.misaligned addr z.bytes)) ∧
        (r.writable = true → memWrite s addr z v = .error (.misaligned addr z.bytes))))

/-- O55. What MemRead answers. In a readable region that is not shared, at an address that is aligned or with
MISALIGNED = permit: if a byte holds nobyte, MemRead raises UninitMemory; otherwise it answers the value whose bytes
are the n bytes in host byte order, the rest zero, and changes nothing. In a shared region the bytes are those of
ORACLE, whatever memory holds, and only the model's count of shared reads changes (log entry 5). From 20_memory.md
R41; 20_memory.md R45; 20_memory.md R51; 20_memory.md R52; 20_memory.md R58. -/
def Obligations.ReadValue : Prop :=
  ∀ (s : State) (addr : Word) (z : Size) (r : Region), regionsOk s.regions = true → r ∈ s.regions →
    covers r addr z → r.readable = true → addr.toNat % z.bytes = 0 ∨ s.params.misaligned = .permit →
    (r.shared = false →
      ((∃ i < z.bytes, readByte s.mem (addr.toNat + i) = none) →
        memRead s addr z = .error (.uninitMemory addr z.bytes)) ∧
      ((∀ i < z.bytes, readByte s.mem (addr.toNat + i) ≠ none) →
        ∃ v, memRead s addr z = .ok (v, s) ∧ v.toNat < 2 ^ (8 * z.bytes) ∧
          ∀ i < z.bytes, readByte s.mem (addr.toNat + i) = some (byteAt s.params.hostEndian z.bytes v i))) ∧
    (r.shared = true →
      ∃ v, memRead s addr z = .ok (v, { s with oracleTick := s.oracleTick + 1 }) ∧ v.toNat < 2 ^ (8 * z.bytes) ∧
        ∀ i < z.bytes, Config.oracle s.oracleTick (addr.toNat + i) = byteAt s.params.hostEndian z.bytes v i)

/-- O56. What MemWrite stores. In a writable region, at an address that is aligned or with MISALIGNED = permit,
MemWrite completes: the n bytes hold the low 8n bits of the value in host byte order, every other byte reads as
before, and nothing but memory changes; a nobyte does not stop it. From 20_memory.md R42; 20_memory.md R45;
20_memory.md R48. -/
def Obligations.WriteEffect : Prop :=
  ∀ (s : State) (addr : Word) (z : Size) (r : Region) (v : Word), regionsOk s.regions = true → r ∈ s.regions →
    covers r addr z → r.writable = true → addr.toNat % z.bytes = 0 ∨ s.params.misaligned = .permit →
    ∃ m, memWrite s addr z v = .ok { s with mem := m } ∧
      (∀ i < z.bytes, readByte m (addr.toNat + i) = some (byteAt s.params.hostEndian z.bytes v i)) ∧
      (∀ a : Nat, a < addr.toNat ∨ addr.toNat + z.bytes ≤ a → readByte m a = readByte s.mem a)

/-- O57. The read-modify-write of the atomic instructions and its faults. Where the bytes run past 2^64 or lie in no
region, the update raises MemFault(read), and nothing is stored. Where MemRead answers an old value at an aligned
address, and the region is writable, the update completes with that old value and the state MemWrite gives for the
new one. An unreadable region raises MemFault(read), a readable one that is not writable MemFault(write), a
misaligned address Misaligned under either value of MISALIGNED, a nobyte UninitMemory, in this order. From
44_atomic.md R270; 44_atomic.md R275; 20_memory.md R41; 20_memory.md R48; 20_memory.md R50. -/
def Obligations.AtomicUpdate : Prop :=
  ∀ (s : State) (addr : Word) (z : Size) (f : Word → Word),
    (2 ^ 64 < addr.toNat + z.bytes ∨ (∀ r ∈ s.regions, ¬ covers r addr z) →
      atomicUpdate s addr z f = .error (.memFault addr z.bytes .read)) ∧
    (∀ r : Region, regionsOk s.regions = true → r ∈ s.regions → covers r addr z →
      (r.readable = false → atomicUpdate s addr z f = .error (.memFault addr z.bytes .read)) ∧
      (r.readable = true → r.writable = false →
        atomicUpdate s addr z f = .error (.memFault addr z.bytes .write)) ∧
      (r.readable = true → r.writable = true → addr.toNat % z.bytes ≠ 0 →
        atomicUpdate s addr z f = .error (.misaligned addr z.bytes)) ∧
      (r.readable = true → r.writable = true → addr.toNat % z.bytes = 0 → r.shared = false →
        (∃ i < z.bytes, readByte s.mem (addr.toNat + i) = none) →
        atomicUpdate s addr z f = .error (.uninitMemory addr z.bytes)) ∧
      (∀ old u, r.readable = true → r.writable = true → addr.toNat % z.bytes = 0 →
        memRead s addr z = .ok (old, u) →
        ∃ t, memWrite u addr z (f old) = .ok t ∧ atomicUpdate s addr z f = .ok (old, t)))

/-- O58. What narrower reads see of an 8-byte write. After an 8-byte MemWrite of v in a region that is readable and
not shared, reads of 1, 2 and 4 bytes inside those bytes give the bits that R46 lists, for either host byte order.
From 20_memory.md R46. -/
def Obligations.MixedWidth : Prop :=
  ∀ (s t : State) (a v : Word) (r : Region), regionsOk s.regions = true → r ∈ s.regions → covers r a .dw →
    r.readable = true → r.shared = false → a.toNat % 8 = 0 → memWrite s a .dw v = .ok t →
    (s.params.hostEndian = .little →
      (∀ i < 8, memRead t (a + BitVec.ofNat 64 i) .b = .ok (BitVec.ofNat 64 (v.toNat / 2 ^ (8 * i) % 2 ^ 8), t)) ∧
      (∀ i < 4, memRead t (a + BitVec.ofNat 64 (2 * i)) .h =
        .ok (BitVec.ofNat 64 (v.toNat / 2 ^ (16 * i) % 2 ^ 16), t)) ∧
      (∀ i < 2, memRead t (a + BitVec.ofNat 64 (4 * i)) .w =
        .ok (BitVec.ofNat 64 (v.toNat / 2 ^ (32 * i) % 2 ^ 32), t))) ∧
    (s.params.hostEndian = .big →
      (∀ i < 8, memRead t (a + BitVec.ofNat 64 i) .b =
        .ok (BitVec.ofNat 64 (v.toNat / 2 ^ (56 - 8 * i) % 2 ^ 8), t)) ∧
      (∀ i < 4, memRead t (a + BitVec.ofNat 64 (2 * i)) .h =
        .ok (BitVec.ofNat 64 (v.toNat / 2 ^ (48 - 16 * i) % 2 ^ 16), t)) ∧
      (∀ i < 2, memRead t (a + BitVec.ofNat 64 (4 * i)) .w =
        .ok (BitVec.ofNat 64 (v.toNat / 2 ^ (32 - 32 * i) % 2 ^ 32), t)))

/-- O59. A read after a write of the same bytes gives what was written. After a MemWrite in a region that is
readable and not shared, a MemRead of the same address and size answers the low 8n bits of the value; a MemRead of
other bytes of such a region answers what it answered before the write, or faults as it did. From 20_memory.md R53;
20_memory.md R51. -/
def Obligations.ReadAfterWrite : Prop :=
  ∀ (s t : State) (a v : Word) (z : Size) (r : Region), regionsOk s.regions = true → r ∈ s.regions → covers r a z →
    r.readable = true → r.shared = false → memWrite s a z v = .ok t →
    memRead t a z = .ok (BitVec.ofNat 64 (v.toNat % 2 ^ (8 * z.bytes)), t) ∧
    (∀ (b : Word) (y : Size) (q : Region), q ∈ s.regions → covers q b y → q.shared = false →
      b.toNat + y.bytes ≤ a.toNat ∨ a.toNat + z.bytes ≤ b.toNat →
      (∀ w, memRead s b y = .ok (w, s) → memRead t b y = .ok (w, t)) ∧
      (∀ f, memRead s b y = .error f → memRead t b y = .error f))

/-- O60. Where loads, stores and atomic operations complete, and with what. Each of the four loads, eight stores and
twenty atomic operations answers a next state that is no fault, for every state and operands such that its registers
are readable and its bytes lie in one region with the permissions, aligned as the access asks, and, for a load or an
atomic operation, none of them nobyte. The state is given in full: the value loaded or fetched is the one whose
bytes in host byte order are those seen, the bytes stored are those of the new value, every other byte reads as
before, pc advances by 1, and no other register or field changes but the model's count of shared reads (log entry
5). From 43_load_store.md R250; 43_load_store.md R251; 43_load_store.md R252; 44_atomic.md R270; 44_atomic.md R274;
44_atomic.md R275; 20_memory.md R41; 20_memory.md R42; 20_memory.md R45; 20_memory.md R48. -/
def Obligations.AccessesComplete : Prop :=
  LoadCompletes .ldxw .w ∧
  LoadCompletes .ldxh .h ∧
  LoadCompletes .ldxb .b ∧
  LoadCompletes .ldxdw .dw ∧
  StoreImmCompletes .stw .w ∧
  StoreImmCompletes .sth .h ∧
  StoreImmCompletes .stb .b ∧
  StoreImmCompletes .stdw .dw ∧
  StoreRegCompletes .stxw .w ∧
  StoreRegCompletes .stxh .h ∧
  StoreRegCompletes .stxb .b ∧
  StoreRegCompletes .stxdw .dw ∧
  AtomicCompletes .atomicAdd32 .w .v1 (onLow (fun a b => a + b)) false ∧
  AtomicCompletes .atomicFetchAdd32 .w .v3 (onLow (fun a b => a + b)) true ∧
  AtomicCompletes .atomicOr32 .w .v3 (onLow (fun a b => a ||| b)) false ∧
  AtomicCompletes .atomicFetchOr32 .w .v3 (onLow (fun a b => a ||| b)) true ∧
  AtomicCompletes .atomicAnd32 .w .v3 (onLow (fun a b => a &&& b)) false ∧
  AtomicCompletes .atomicFetchAnd32 .w .v3 (onLow (fun a b => a &&& b)) true ∧
  AtomicCompletes .atomicXor32 .w .v3 (onLow (fun a b => a ^^^ b)) false ∧
  AtomicCompletes .atomicFetchXor32 .w .v3 (onLow (fun a b => a ^^^ b)) true ∧
  AtomicCompletes .atomicXchg32 .w .v3 (onLow (fun _ b => b)) true ∧
  CompareCompletes .atomicCmpxchg32 .w
    (fun old r v => if old.toNat % 2 ^ 32 = r.toNat % 2 ^ 32 then v else old) ∧
  AtomicCompletes .atomicAdd64 .dw .v1 (fun a b => a + b) false ∧
  AtomicCompletes .atomicFetchAdd64 .dw .v3 (fun a b => a + b) true ∧
  AtomicCompletes .atomicOr64 .dw .v3 (fun a b => a ||| b) false ∧
  AtomicCompletes .atomicFetchOr64 .dw .v3 (fun a b => a ||| b) true ∧
  AtomicCompletes .atomicAnd64 .dw .v3 (fun a b => a &&& b) false ∧
  AtomicCompletes .atomicFetchAnd64 .dw .v3 (fun a b => a &&& b) true ∧
  AtomicCompletes .atomicXor64 .dw .v3 (fun a b => a ^^^ b) false ∧
  AtomicCompletes .atomicFetchXor64 .dw .v3 (fun a b => a ^^^ b) true ∧
  AtomicCompletes .atomicXchg64 .dw .v3 (fun _ b => b) true ∧
  CompareCompletes .atomicCmpxchg64 .dw
    (fun old r v => if old = r then v else old)
end

