-- ==== Sys2Proof/Laws/Memory.lean ====
section
/-! SUPPORT. Memory cells: what a write leaves, and the canonical form, which every write keeps. -/

namespace Sys2Proof.Machine

/-! ### Bytes -/

@[simp] theorem splitLE_length (n : Nat) (v : Word) : (splitLE n v).length = n := by
  induction n generalizing v with
  | zero => rfl
  | succ n ih => simp [splitLE, ih]

@[simp] theorem hostOrder_length (e : Endian) (bs : List Byte) : (hostOrder e bs).length = bs.length := by
  cases e <;> simp [hostOrder]

@[simp] theorem hostOrder_hostOrder (e : Endian) (bs : List Byte) : hostOrder e (hostOrder e bs) = bs := by
  cases e <;> simp [hostOrder]

@[simp] theorem storedBytes_length (s : State) (z : Size) (v : Word) : (storedBytes s z v).length = z.bytes := by
  simp [storedBytes]

/-- The bits of the value of `n` low bytes: those below `8n`, the rest zero (R9). -/
theorem lowBytes_getLsbD (n : Nat) (v : Word) (k : Nat) :
    (lowBytes n v).getLsbD k = (decide (k < 64) && decide (k < 8 * n) && v.getLsbD k) := by
  unfold lowBytes
  induction n generalizing v k with
  | zero => simp [splitLE, joinLE]
  | succ n ih =>
    simp only [splitLE, joinLE, BitVec.getLsbD_or, BitVec.getLsbD_shiftLeft, ih, BitVec.getLsbD_setWidth,
      BitVec.getLsbD_ushiftRight]
    by_cases h64 : k < 64
    · by_cases h8 : k < 8
      · simp [h64, h8, show k < 8 * (n + 1) by omega]
      · have e : 8 + (k - 8) = k := by omega
        by_cases hn : k - 8 < 8 * n
        · simp [h64, h8, e, show k < 8 * (n + 1) by omega, show k - 8 < 64 by omega, hn]
        · simp [h64, h8, show ¬ k < 8 * (n + 1) by omega, hn]
    · simp [h64]

/-- Eight bytes are the whole value. -/
@[simp] theorem lowBytes_eight (v : Word) : lowBytes 8 v = v := by
  apply BitVec.eq_of_getLsbD_eq; intro k hk
  rw [lowBytes_getLsbD]; simp [hk]

@[simp] theorem joinLE_splitLE (n : Nat) (v : Word) : joinLE (splitLE n v) = lowBytes n v := rfl

theorem lowBytes_lowBytes (n : Nat) (v : Word) : lowBytes n (lowBytes n v) = lowBytes n v := by
  apply BitVec.eq_of_getLsbD_eq; intro k hk
  rw [lowBytes_getLsbD, lowBytes_getLsbD]; simp

/-! ### Cells -/

theorem readByte_writeByte (m : Memory) (a : Nat) (b : Byte) (c : Nat) :
    readByte (writeByte m a b) c = if c = a then some b else readByte m c := by
  induction m with
  | nil => simp [writeByte, readByte, eq_comm]
  | cons x m ih =>
    obtain ⟨k, v⟩ := x
    simp only [writeByte]
    split
    · simp only [readByte, eq_comm (a := a)]
    · split
      · next h => subst h; simp only [readByte, eq_comm (a := a)]; split <;> simp_all
      · next h => simp only [readByte, ih]; split
                  · next e => subst e; rw [if_neg (Ne.symm h)]
                  · rfl

/-- A byte outside the written ones reads as before (R42). -/
theorem readByte_writeBytes_outside (m : Memory) (a : Nat) (bs : List Byte) (c : Nat)
    (h : c < a ∨ a + bs.length ≤ c) : readByte (writeBytes m a bs) c = readByte m c := by
  induction bs generalizing m a with
  | nil => rfl
  | cons b bs ih =>
    simp only [List.length_cons] at h
    rw [writeBytes, ih _ _ (by omega), readByte_writeByte, if_neg (by omega)]

/-- A written byte reads as written (R42). -/
theorem readByte_writeBytes_inside (m : Memory) (a : Nat) (bs : List Byte) (i : Nat) (h : i < bs.length) :
    readByte (writeBytes m a bs) (a + i) = some bs[i] := by
  induction bs generalizing m a i with
  | nil => simp at h
  | cons b bs ih =>
    cases i with
    | zero =>
      rw [writeBytes, readByte_writeBytes_outside _ _ _ _ (by omega), readByte_writeByte, if_pos (by omega)]; rfl
    | succ i =>
      rw [writeBytes, show a + (i + 1) = a + 1 + i by omega, ih _ _ _ (by simpa using h)]; rfl

/-- Bytes read where each of them is known. -/
theorem readBytes_eq_some (m : Memory) (a : Nat) (bs : List Byte)
    (h : ∀ i, (hi : i < bs.length) → readByte m (a + i) = some bs[i]) : readBytes m a bs.length = some bs := by
  induction bs generalizing a with
  | nil => rfl
  | cons b bs ih =>
    have h0 := h 0 (by simp)
    have hr : readBytes m (a + 1) bs.length = some bs := by
      apply ih; intro i hi
      have := h (i + 1) (by simpa using hi)
      simpa [show a + 1 + i = a + (i + 1) by omega] using this
    simp only [List.length_cons, readBytes, hr]
    simp only [Nat.add_zero, List.getElem_cons_zero] at h0
    rw [h0]

/-- Bytes that were read are the memory's. -/
theorem readByte_of_readBytes {m : Memory} {a n : Nat} {bs : List Byte} (h : readBytes m a n = some bs) :
    bs.length = n ∧ ∀ i (hi : i < bs.length), readByte m (a + i) = some bs[i] := by
  induction n generalizing a bs with
  | zero => simp only [readBytes, Option.some.injEq] at h; subst h; simp
  | succ n ih =>
    simp only [readBytes] at h
    split at h
    · next b bs' h1 h2 =>
      cases h
      obtain ⟨l, k⟩ := ih h2
      refine ⟨by simp [l], fun i hi => ?_⟩
      cases i with
      | zero => simpa using h1
      | succ i => simpa [show a + 1 + i = a + (i + 1) by omega] using k i (by simpa using hi)
    · cases h

/-- Bytes just written read back (R53 part a). -/
theorem readBytes_writeBytes (m : Memory) (a : Nat) (bs : List Byte) :
    readBytes (writeBytes m a bs) a bs.length = some bs :=
  readBytes_eq_some _ _ _ (fun i hi => readByte_writeBytes_inside m a bs i hi)

/-- Reading bytes looks at those bytes alone. -/
theorem readBytes_congr {m m' : Memory} {a n : Nat} (h : ∀ i < n, readByte m' (a + i) = readByte m (a + i)) :
    readBytes m' a n = readBytes m a n := by
  induction n generalizing a with
  | zero => rfl
  | succ n ih =>
    have h0 := h 0 (by omega)
    have hr := ih (a := a + 1) (fun i hi => by simpa [show a + 1 + i = a + (i + 1) by omega] using h (i + 1) (by omega))
    simp only [readBytes, hr]
    simp only [Nat.add_zero] at h0
    rw [h0]

/-- Bytes are read if and only if none of them is `nobyte` (R58). -/
theorem readBytes_isSome (m : Memory) (a n : Nat) :
    (readBytes m a n).isSome = true ↔ ∀ i < n, (readByte m (a + i)).isSome = true := by
  induction n generalizing a with
  | zero => simp [readBytes]
  | succ n ih =>
    have e : (∀ i < n + 1, (readByte m (a + i)).isSome = true) ↔
        (readByte m a).isSome = true ∧ ∀ i < n, (readByte m (a + 1 + i)).isSome = true := by
      constructor
      · exact fun h => ⟨by simpa using h 0 (by omega),
          fun i hi => by simpa [show a + 1 + i = a + (i + 1) by omega] using h (i + 1) (by omega)⟩
      · rintro ⟨h0, h⟩ i hi
        cases i with
        | zero => simpa using h0
        | succ i => simpa [show a + (i + 1) = a + 1 + i by omega] using h i (by omega)
    rw [e, ← ih]
    simp only [readBytes]
    cases readByte m a <;> cases readBytes m (a + 1) n <;> simp

/-! ### The canonical form -/

theorem wf_iff (m : Memory) :
    m.wf = true ↔ m.Pairwise (fun x y => x.1 < y.1) ∧ ∀ c ∈ m, c.1 < 2 ^ 64 := by
  simp [Memory.wf]

/-- The cells after a write: the written one and some of those before. -/
theorem mem_writeByte {m : Memory} {a : Nat} {b : Byte} {c : Host.Cell} (h : c ∈ writeByte m a b) :
    c = (a, b) ∨ c ∈ m := by
  induction m with
  | nil => simpa [writeByte] using h
  | cons x m ih =>
    obtain ⟨k, v⟩ := x
    simp only [writeByte] at h
    split at h
    · simpa using h
    split at h
    · simp only [List.mem_cons] at h ⊢; tauto
    · simp only [List.mem_cons] at h ⊢
      rcases h with h | h
      · tauto
      · rcases ih h with h | h <;> tauto

theorem wf_writeByte {m : Memory} {a : Nat} {b : Byte} (h : m.wf = true) (ha : a < 2 ^ 64) :
    (writeByte m a b).wf = true := by
  rw [wf_iff] at h ⊢
  refine ⟨?_, fun c hc => ?_⟩
  · obtain ⟨hp, -⟩ := h
    induction m with
    | nil => simp [writeByte]
    | cons x m ih =>
      obtain ⟨k, v⟩ := x
      rw [List.pairwise_cons] at hp
      simp only [writeByte]
      split
      · next hk =>
        refine List.pairwise_cons.2 ⟨fun c hc => ?_, List.pairwise_cons.2 hp⟩
        rcases List.mem_cons.1 hc with rfl | hc
        · exact hk
        · exact Nat.lt_trans hk (hp.1 c hc)
      split
      · next hk => subst hk; exact List.pairwise_cons.2 hp
      · refine List.pairwise_cons.2 ⟨fun c hc => ?_, ih hp.2⟩
        rcases mem_writeByte hc with rfl | hc
        · show k < a; omega
        · exact hp.1 c hc
  · rcases mem_writeByte hc with rfl | hc
    · exact ha
    · exact h.2 c hc

/-- Every store keeps the canonical form. -/
theorem wf_writeBytes {m : Memory} {a : Nat} {bs : List Byte} (h : m.wf = true) (ha : a + bs.length ≤ 2 ^ 64) :
    (writeBytes m a bs).wf = true := by
  induction bs generalizing m a with
  | nil => exact h
  | cons b bs ih =>
    simp only [List.length_cons] at ha
    exact ih (wf_writeByte h (by omega)) (by omega)

/-- The memory at reset has the canonical form. -/
theorem wf_reset : State.reset.mem.wf = true := by decide

/-- Bytes written inside a region keep every byte of memory in a region. -/
theorem cellsInRegions_writeByte {rs : List Region} {m : Memory} {a : Nat} {b : Byte} {r : Region}
    (h : cellsInRegions rs m = true) (hr : r ∈ rs) (ha : inRegion r a = true) :
    cellsInRegions rs (writeByte m a b) = true := by
  simp only [cellsInRegions, List.all_eq_true, List.any_eq_true] at h ⊢
  intro c hc
  rcases mem_writeByte hc with rfl | hc
  · exact ⟨r, hr, ha⟩
  · exact h c hc

theorem cellsInRegions_writeBytes {rs : List Region} {m : Memory} {a : Nat} {bs : List Byte} {r : Region}
    (h : cellsInRegions rs m = true) (hr : r ∈ rs) (ha : r.base ≤ a) (hb : a + bs.length ≤ r.base + r.length) :
    cellsInRegions rs (writeBytes m a bs) = true := by
  induction bs generalizing m a with
  | nil => exact h
  | cons b bs ih =>
    simp only [List.length_cons] at hb
    refine ih (cellsInRegions_writeByte h hr ?_) (by omega) (by omega)
    simp [inRegion]; omega

end Sys2Proof.Machine
end

