-- ==== Sys2Proof/Laws/Bytes.lean ====
section
/-! SUPPORT. Values as numbers: what joining and splitting bytes does to them. -/

namespace Sys2Proof.Machine

/-- The number whose base-256 digits are these bytes, the least significant one first. -/
def numLE : List Byte → Nat
  | [] => 0
  | b :: bs => b.toNat + 256 * numLE bs

theorem numLE_lt (bs : List Byte) : numLE bs < 256 ^ bs.length := by
  induction bs with
  | nil => simp [numLE]
  | cons b bs ih =>
    have := b.isLt
    simp only [numLE, List.length_cons, pow_succ]
    omega

/-- Up to eight bytes are joined without loss. -/
theorem joinLE_toNat (bs : List Byte) (h : bs.length ≤ 8) : (joinLE bs).toNat = numLE bs := by
  induction bs with
  | nil => rfl
  | cons b bs ih =>
    have hl : bs.length ≤ 7 := by simp only [List.length_cons] at h; omega
    have hi := ih (by omega)
    have hb := b.isLt
    have hv : numLE bs < 2 ^ 56 := by
      refine Nat.lt_of_lt_of_le (numLE_lt bs) ?_
      calc 256 ^ bs.length ≤ 256 ^ 7 := Nat.pow_le_pow_right (by decide) hl
        _ = 2 ^ 56 := by norm_num
    simp only [joinLE, BitVec.toNat_or, BitVec.toNat_shiftLeft, BitVec.toNat_setWidth, hi]
    rw [Nat.shiftLeft_eq, Nat.mod_eq_of_lt (by omega), Nat.mod_eq_of_lt (by omega), Nat.mul_comm,
      ← Nat.two_pow_add_eq_or_of_lt hb]
    simp only [numLE]; omega

/-- The bytes of a value are its base-256 digits. -/
theorem splitLE_getElem (n : Nat) (v : Word) (i : Nat) (h : i < (splitLE n v).length) :
    (splitLE n v)[i] = BitVec.ofNat 8 (v.toNat / 2 ^ (8 * i)) := by
  induction n generalizing v i with
  | zero => simp [splitLE] at h
  | succ n ih =>
    cases i with
    | zero => apply BitVec.eq_of_toNat_eq; simp [splitLE]
    | succ i =>
      have := ih (v >>> 8) i (by simpa [splitLE] using h)
      simp only [splitLE, List.getElem_cons_succ, this]
      congr 1
      rw [BitVec.toNat_ushiftRight, Nat.shiftRight_eq_div_pow, Nat.div_div_eq_div_mul, ← pow_add]
      congr 2; omega

theorem numLE_splitLE (n : Nat) (v : Word) : numLE (splitLE n v) = v.toNat % 256 ^ n := by
  induction n generalizing v with
  | zero => simp [splitLE, numLE, Nat.mod_one]
  | succ n ih =>
    simp only [splitLE, numLE, ih, BitVec.toNat_setWidth, BitVec.toNat_ushiftRight, Nat.shiftRight_eq_div_pow]
    rw [pow_succ' 256 n, Nat.mod_mul]

/-- The `n` low bytes as a number (R9). -/
theorem lowBytes_toNat (n : Nat) (v : Word) (h : n ≤ 8) : (lowBytes n v).toNat = v.toNat % 256 ^ n := by
  rw [lowBytes, joinLE_toNat _ (by simpa using h), numLE_splitLE]

/-- What is stored depends on the low bytes alone (R42). -/
theorem splitLE_lowBytes (n : Nat) (v : Word) (h : n ≤ 8) : splitLE n (lowBytes n v) = splitLE n v := by
  apply List.ext_getElem (by simp)
  intro i h1 h2
  rw [splitLE_getElem, splitLE_getElem, lowBytes_toNat _ _ h]
  have hi : i < n := by simpa using h1
  apply BitVec.eq_of_toNat_eq
  rw [BitVec.toNat_ofNat, BitVec.toNat_ofNat]
  have e : (256 : Nat) ^ n = 2 ^ (8 * i) * (2 ^ 8 * 256 ^ (n - i - 1)) := by
    rw [show (256 : Nat) = 2 ^ 8 by norm_num, ← pow_mul, ← pow_mul, ← pow_add, ← pow_add]
    congr 1; omega
  rw [e, Nat.mod_mul_right_div_self, Nat.mod_mul_right_mod]

/-- Joining bytes and splitting the value gives the bytes back. -/
theorem splitLE_joinLE (bs : List Byte) (h : bs.length ≤ 8) : splitLE bs.length (joinLE bs) = bs := by
  have key : ∀ (bs : List Byte) (v : Word), v.toNat % 256 ^ bs.length = numLE bs → splitLE bs.length v = bs := by
    intro bs
    induction bs with
    | nil => intro v _; rfl
    | cons b bs ih =>
      intro v hv
      simp only [List.length_cons, numLE, pow_succ', Nat.mod_mul] at hv
      have hb := b.isLt
      have h1 : v.toNat % 256 = b.toNat := by omega
      simp only [splitLE, List.length_cons]
      congr 1
      · apply BitVec.eq_of_toNat_eq; simpa using h1
      · apply ih
        rw [BitVec.toNat_ushiftRight, Nat.shiftRight_eq_div_pow]
        show v.toNat / 256 % _ = _
        omega
  apply key
  rw [joinLE_toNat _ h, Nat.mod_eq_of_lt (numLE_lt bs)]

theorem size_le_eight (z : Size) : z.bytes ≤ 8 := by cases z <;> decide

theorem size_pos (z : Size) : 0 < z.bytes := by cases z <;> decide

end Sys2Proof.Machine
end

