-- ==== Sys2Proof/Laws/State.lean ====
section
/-! SUPPORT. One lemma per field per update of the state, true by `rfl`, so that no proof unfolds an update; and the
register file's own lemmas. -/

namespace Sys2Proof.Machine

@[simp] theorem writeReg_regs (s : State) (r : Reg) (v : Word) : (writeReg s r v).regs = s.regs.set r (some v) := rfl
@[simp] theorem writeReg_pc (s : State) (r : Reg) (v : Word) : (writeReg s r v).pc = s.pc := rfl
@[simp] theorem writeReg_mem (s : State) (r : Reg) (v : Word) : (writeReg s r v).mem = s.mem := rfl
@[simp] theorem writeReg_outcome (s : State) (r : Reg) (v : Word) : (writeReg s r v).outcome = s.outcome := rfl
@[simp] theorem writeReg_program (s : State) (r : Reg) (v : Word) : (writeReg s r v).program = s.program := rfl
@[simp] theorem writeReg_params (s : State) (r : Reg) (v : Word) : (writeReg s r v).params = s.params := rfl
@[simp] theorem writeReg_regions (s : State) (r : Reg) (v : Word) : (writeReg s r v).regions = s.regions := rfl
@[simp] theorem writeReg_helpers (s : State) (r : Reg) (v : Word) : (writeReg s r v).helpers = s.helpers := rfl
@[simp] theorem writeReg_packet (s : State) (r : Reg) (v : Word) : (writeReg s r v).packet = s.packet := rfl
@[simp] theorem writeReg_abortResult (s : State) (r : Reg) (v : Word) : (writeReg s r v).abortResult = s.abortResult := rfl
@[simp] theorem writeReg_oracleTick (s : State) (r : Reg) (v : Word) : (writeReg s r v).oracleTick = s.oracleTick := rfl

@[simp] theorem clobberArgs_regs (s : State) : (clobberArgs s).regs = { s.regs with r1 := none, r2 := none, r3 := none, r4 := none, r5 := none } := rfl
@[simp] theorem clobberArgs_pc (s : State) : (clobberArgs s).pc = s.pc := rfl
@[simp] theorem clobberArgs_mem (s : State) : (clobberArgs s).mem = s.mem := rfl
@[simp] theorem clobberArgs_outcome (s : State) : (clobberArgs s).outcome = s.outcome := rfl
@[simp] theorem clobberArgs_program (s : State) : (clobberArgs s).program = s.program := rfl
@[simp] theorem clobberArgs_params (s : State) : (clobberArgs s).params = s.params := rfl
@[simp] theorem clobberArgs_regions (s : State) : (clobberArgs s).regions = s.regions := rfl
@[simp] theorem clobberArgs_helpers (s : State) : (clobberArgs s).helpers = s.helpers := rfl
@[simp] theorem clobberArgs_packet (s : State) : (clobberArgs s).packet = s.packet := rfl
@[simp] theorem clobberArgs_abortResult (s : State) : (clobberArgs s).abortResult = s.abortResult := rfl
@[simp] theorem clobberArgs_oracleTick (s : State) : (clobberArgs s).oracleTick = s.oracleTick := rfl

@[simp] theorem advance_regs (s : State) (n : Int) : (advance s n).regs = s.regs := rfl
@[simp] theorem advance_pc (s : State) (n : Int) : (advance s n).pc = s.pc + n := rfl
@[simp] theorem advance_mem (s : State) (n : Int) : (advance s n).mem = s.mem := rfl
@[simp] theorem advance_outcome (s : State) (n : Int) : (advance s n).outcome = s.outcome := rfl
@[simp] theorem advance_program (s : State) (n : Int) : (advance s n).program = s.program := rfl
@[simp] theorem advance_params (s : State) (n : Int) : (advance s n).params = s.params := rfl
@[simp] theorem advance_regions (s : State) (n : Int) : (advance s n).regions = s.regions := rfl
@[simp] theorem advance_helpers (s : State) (n : Int) : (advance s n).helpers = s.helpers := rfl
@[simp] theorem advance_packet (s : State) (n : Int) : (advance s n).packet = s.packet := rfl
@[simp] theorem advance_abortResult (s : State) (n : Int) : (advance s n).abortResult = s.abortResult := rfl
@[simp] theorem advance_oracleTick (s : State) (n : Int) : (advance s n).oracleTick = s.oracleTick := rfl

@[simp] theorem jumpTo_regs (s : State) (off : Off) : (jumpTo s off).regs = s.regs := rfl
@[simp] theorem jumpTo_pc (s : State) (off : Off) : (jumpTo s off).pc = s.pc + 1 + off.toInt := rfl
@[simp] theorem jumpTo_mem (s : State) (off : Off) : (jumpTo s off).mem = s.mem := rfl
@[simp] theorem jumpTo_outcome (s : State) (off : Off) : (jumpTo s off).outcome = s.outcome := rfl
@[simp] theorem jumpTo_program (s : State) (off : Off) : (jumpTo s off).program = s.program := rfl
@[simp] theorem jumpTo_params (s : State) (off : Off) : (jumpTo s off).params = s.params := rfl
@[simp] theorem jumpTo_regions (s : State) (off : Off) : (jumpTo s off).regions = s.regions := rfl
@[simp] theorem jumpTo_helpers (s : State) (off : Off) : (jumpTo s off).helpers = s.helpers := rfl
@[simp] theorem jumpTo_packet (s : State) (off : Off) : (jumpTo s off).packet = s.packet := rfl
@[simp] theorem jumpTo_abortResult (s : State) (off : Off) : (jumpTo s off).abortResult = s.abortResult := rfl
@[simp] theorem jumpTo_oracleTick (s : State) (off : Off) : (jumpTo s off).oracleTick = s.oracleTick := rfl

@[simp] theorem raise_regs (s : State) (f : Fault) : (raise s f).regs = s.regs := rfl
@[simp] theorem raise_pc (s : State) (f : Fault) : (raise s f).pc = s.pc := rfl
@[simp] theorem raise_mem (s : State) (f : Fault) : (raise s f).mem = s.mem := rfl
@[simp] theorem raise_outcome (s : State) (f : Fault) : (raise s f).outcome = .fault f := rfl
@[simp] theorem raise_program (s : State) (f : Fault) : (raise s f).program = s.program := rfl
@[simp] theorem raise_params (s : State) (f : Fault) : (raise s f).params = s.params := rfl
@[simp] theorem raise_regions (s : State) (f : Fault) : (raise s f).regions = s.regions := rfl
@[simp] theorem raise_helpers (s : State) (f : Fault) : (raise s f).helpers = s.helpers := rfl
@[simp] theorem raise_packet (s : State) (f : Fault) : (raise s f).packet = s.packet := rfl
@[simp] theorem raise_abortResult (s : State) (f : Fault) : (raise s f).abortResult = s.abortResult := rfl
@[simp] theorem raise_oracleTick (s : State) (f : Fault) : (raise s f).oracleTick = s.oracleTick := rfl

@[simp] theorem storeBytes_regs (s : State) (a : Word) (z : Size) (v : Word) : (storeBytes s a z v).regs = s.regs := rfl
@[simp] theorem storeBytes_pc (s : State) (a : Word) (z : Size) (v : Word) : (storeBytes s a z v).pc = s.pc := rfl
@[simp] theorem storeBytes_mem (s : State) (a : Word) (z : Size) (v : Word) : (storeBytes s a z v).mem = writeBytes s.mem a.toNat (storedBytes s z v) := rfl
@[simp] theorem storeBytes_outcome (s : State) (a : Word) (z : Size) (v : Word) : (storeBytes s a z v).outcome = s.outcome := rfl
@[simp] theorem storeBytes_program (s : State) (a : Word) (z : Size) (v : Word) : (storeBytes s a z v).program = s.program := rfl
@[simp] theorem storeBytes_params (s : State) (a : Word) (z : Size) (v : Word) : (storeBytes s a z v).params = s.params := rfl
@[simp] theorem storeBytes_regions (s : State) (a : Word) (z : Size) (v : Word) : (storeBytes s a z v).regions = s.regions := rfl
@[simp] theorem storeBytes_helpers (s : State) (a : Word) (z : Size) (v : Word) : (storeBytes s a z v).helpers = s.helpers := rfl
@[simp] theorem storeBytes_packet (s : State) (a : Word) (z : Size) (v : Word) : (storeBytes s a z v).packet = s.packet := rfl
@[simp] theorem storeBytes_abortResult (s : State) (a : Word) (z : Size) (v : Word) : (storeBytes s a z v).abortResult = s.abortResult := rfl
@[simp] theorem storeBytes_oracleTick (s : State) (a : Word) (z : Size) (v : Word) : (storeBytes s a z v).oracleTick = s.oracleTick := rfl

/-- A register other than R10 reads back what was written (R9). -/
@[simp] theorem get_set_self {g : Regs} {r : Reg} {v : Option Word} (h : r ≠ .r10) : (g.set r v).get r = v := by
  cases r <;> first | rfl | exact absurd rfl h

/-- Writing one register leaves the others alone (R27). -/
theorem get_set_ne {g : Regs} {r q : Reg} {v : Option Word} (h : q ≠ r) : (g.set r v).get q = g.get q := by
  cases r <;> cases q <;> first | rfl | exact absurd rfl h

/-- R10 is read-only (R23). -/
@[simp] theorem set_r10 (g : Regs) (v : Option Word) : g.set .r10 v = g := rfl

@[simp] theorem r10_set (g : Regs) (r : Reg) (v : Option Word) : (g.set r v).r10 = g.r10 := by cases r <;> rfl

/-- A register holds what `readReg` answers, and `novalue` where it faults (R26). -/
theorem readReg_of_some {s : State} {r : Reg} {v : Word} (h : s.regs.get r = some v) : readReg s r = .ok v := by
  simp [readReg, h]

theorem readReg_of_none {s : State} {r : Reg} (h : s.regs.get r = none) :
    readReg s r = .error (.uninitRegister r) := by
  simp [readReg, h]

theorem readReg_eq_ok {s : State} {r : Reg} {v : Word} : readReg s r = .ok v ↔ s.regs.get r = some v := by
  unfold readReg; split <;> simp_all

/-- What a call and a legacy packet load leave of the registers: R1 to R5 `novalue`, the others as they were (R24,
R307). -/
theorem clobberArgs_get (s : State) (r : Reg) :
    (clobberArgs s).regs.get r = if r ∈ [Reg.r1, .r2, .r3, .r4, .r5] then none else s.regs.get r := by
  cases r <;> rfl

/-- Two register files that agree on every register are equal. -/
theorem regs_ext {g k : Regs} (h : ∀ r, g.get r = k.get r) : g = k := by
  have h0 := h .r0; have h1 := h .r1; have h2 := h .r2; have h3 := h .r3; have h4 := h .r4; have h5 := h .r5
  have h6 := h .r6; have h7 := h .r7; have h8 := h .r8; have h9 := h .r9; have h10 := h .r10
  cases g; cases k; simp_all [Regs.get]

/-- An instruction that is well-formed runs its body, and ends with what the body answers or with its fault taken
(R14, R321). -/
theorem attempt_wellFormed {i : Instr} {s : State} {body : State → Except Fault State}
    (h : i.WellFormed s.params) : attempt i s body = .next (settle s (body s)) := by
  unfold attempt; rw [h]

theorem attempt_ok {i : Instr} {s t : State} {body : State → Except Fault State} (h : i.WellFormed s.params)
    (hb : body s = .ok t) : attempt i s body = .next t := by
  rw [attempt_wellFormed h, hb]; rfl

theorem attempt_error {i : Instr} {s : State} {f : Fault} {body : State → Except Fault State}
    (h : i.WellFormed s.params) (hb : body s = .error f) : attempt i s body = .next (raise s f) := by
  rw [attempt_wellFormed h, hb]; rfl

/-- All that a meaning can do: take a fault, which changes the outcome alone, or answer the state of its body. -/
theorem attempt_cases {i : Instr} {s t : State} {body : State → Except Fault State} (h : attempt i s body = .next t) :
    (∃ f, t = raise s f) ∨ (i.WellFormed s.params ∧ body s = .ok t) := by
  unfold attempt at h
  split at h
  · exact .inl ⟨_, by cases h; rfl⟩
  · next hw =>
    cases hb : body s with
    | ok u => rw [hb] at h; cases h; exact .inr ⟨hw, by rfl⟩
    | error f => rw [hb] at h; cases h; exact .inl ⟨f, rfl⟩

/-- A bind of `Except` that answers a value: both parts did. -/
theorem bind_eq_ok {ε α β : Type} {x : Except ε α} {f : α → Except ε β} {b : β} :
    (x >>= f) = .ok b ↔ ∃ a, x = .ok a ∧ f a = .ok b := by
  cases x with
  | ok a =>
    constructor
    · intro h; exact ⟨a, rfl, h⟩
    · rintro ⟨c, h, k⟩; cases h; exact k
  | error e =>
    constructor
    · intro h; cases h
    · rintro ⟨c, h, -⟩; cases h

end Sys2Proof.Machine
end

