-- ==== Sys2Proof/Laws/Access.lean ====
section
/-! SUPPORT. What each access primitive can do, said once; cite these instead of unfolding the primitive. -/

namespace Sys2Proof.Machine

/-- The region found holds the bytes (R41 step 2). -/
theorem findRegion_some {rs : List Region} {a n : Nat} {r : Region} (h : findRegion rs a n = some r) :
    r ∈ rs ∧ r.base ≤ a ∧ a + n ≤ r.base + r.length := by
  have hm := List.mem_of_find?_eq_some h
  have hp := List.find?_some h
  simp at hp
  exact ⟨hm, hp⟩

/-- Checks 1 and 2 of R41 and R42 pass exactly so. -/
theorem checkRegion_eq_ok {s : State} {addr : Word} {z : Size} {d : Access} {r : Region} :
    checkRegion s addr z d = .ok r ↔
      addr.toNat + z.bytes ≤ 2 ^ 64 ∧ findRegion s.regions addr.toNat z.bytes = some r ∧ permits r d = true := by
  unfold checkRegion
  constructor
  · intro h
    split at h
    · cases h
    · split at h
      · cases h
      · split at h
        · next h1 _ _ h2 h3 => cases h; exact ⟨by omega, h2, h3⟩
        · cases h
  · rintro ⟨h1, h2, h3⟩
    rw [if_neg (by omega), h2]; simp [h3]

/-- A failed check of the region is a `MemFault` with the address, the size and the direction (R41, R42). -/
theorem checkRegion_eq_error {s : State} {addr : Word} {z : Size} {d : Access} {f : Fault}
    (h : checkRegion s addr z d = .error f) : f = .memFault addr z.bytes d := by
  unfold checkRegion at h
  split at h
  · cases h; rfl
  · split at h
    · cases h; rfl
    · split at h
      · cases h
      · cases h; rfl

/-- Check 3 of R41 and R42 passes exactly so. -/
theorem checkAligned_eq_ok {s : State} {atomic : Bool} {addr : Word} {z : Size} :
    checkAligned s atomic addr z = .ok () ↔
      isAligned addr z = true ∨ (atomic = false ∧ s.params.misaligned = .permit) := by
  unfold checkAligned
  cases isAligned addr z <;> cases atomic <;> cases s.params.misaligned <;> simp

/-- A failed check of the alignment is `Misaligned` with the address and the size. -/
theorem checkAligned_eq_error {s : State} {atomic : Bool} {addr : Word} {z : Size} {f : Fault}
    (h : checkAligned s atomic addr z = .error f) : f = .misaligned addr z.bytes := by
  unfold checkAligned at h
  split at h <;> cases h
  rfl

/-- Steps 4 and 5 of R41: all that a load of bytes can answer. -/
theorem loadBytes_eq_ok {s t : State} {r : Region} {addr v : Word} {z : Size} :
    loadBytes s r addr z = .ok (v, t) ↔
      (r.shared = true ∧ t = { s with oracleTick := s.oracleTick + 1 } ∧
        v = joinLE (hostOrder s.params.hostEndian (oracleBytes s.oracleTick addr.toNat z.bytes))) ∨
      (r.shared = false ∧ t = s ∧ ∃ bs, readBytes s.mem addr.toNat z.bytes = some bs ∧
        v = joinLE (hostOrder s.params.hostEndian bs)) := by
  unfold loadBytes
  cases r.shared
  · cases readBytes s.mem addr.toNat z.bytes <;> simp [eq_comm, and_comm]
  · simp [eq_comm, and_comm]

/-- A load of bytes can only fail with `UninitMemory` (R58). -/
theorem loadBytes_eq_error {s : State} {r : Region} {addr : Word} {z : Size} {f : Fault}
    (h : loadBytes s r addr z = .error f) : f = .uninitMemory addr z.bytes := by
  unfold loadBytes at h
  split at h
  · cases h
  · split at h <;> cases h
    rfl

/-- `MemRead` (R41): when it answers, and what. -/
theorem memRead_eq_ok {s t : State} {addr v : Word} {z : Size} :
    memRead s addr z = .ok (v, t) ↔
      ∃ r, checkRegion s addr z .read = .ok r ∧ checkAligned s false addr z = .ok () ∧
        loadBytes s r addr z = .ok (v, t) := by
  unfold memRead
  simp only [bind_eq_ok]
  constructor
  · rintro ⟨r, h1, ⟨⟩, h2, h3⟩; exact ⟨r, h1, h2, h3⟩
  · rintro ⟨r, h1, h2, h3⟩; exact ⟨r, h1, (), h2, h3⟩

/-- `MemWrite` (R42): when it answers, and what. -/
theorem memWrite_eq_ok {s t : State} {addr v : Word} {z : Size} :
    memWrite s addr z v = .ok t ↔
      ∃ r, checkRegion s addr z .write = .ok r ∧ checkAligned s false addr z = .ok () ∧
        t = storeBytes s addr z v := by
  unfold memWrite
  simp only [bind_eq_ok, pure, Except.pure, Except.ok.injEq]
  constructor
  · rintro ⟨r, h1, ⟨⟩, h2, h3⟩; exact ⟨r, h1, h2, h3.symm⟩
  · rintro ⟨r, h1, h2, h3⟩; exact ⟨r, h1, (), h2, h3.symm⟩

/-- The update of an atomic instruction (R270, R275): when it answers, and what. -/
theorem atomicUpdate_eq_ok {s t : State} {addr old : Word} {z : Size} {f : Word → Word} :
    atomicUpdate s addr z f = .ok (old, t) ↔
      ∃ r q u, checkRegion s addr z .read = .ok r ∧ checkRegion s addr z .write = .ok q ∧
        checkAligned s true addr z = .ok () ∧ loadBytes s r addr z = .ok (old, u) ∧
        t = storeBytes u addr z (f old) := by
  unfold atomicUpdate
  simp only [bind_eq_ok, pure, Except.pure, Except.ok.injEq, Prod.mk.injEq]
  constructor
  · rintro ⟨r, h1, q, h2, ⟨⟩, h3, ⟨o, u⟩, h4, rfl, h5⟩; exact ⟨r, q, u, h1, h2, h3, h4, h5.symm⟩
  · rintro ⟨r, q, u, h1, h2, h3, h4, h5⟩; exact ⟨r, h1, q, h2, (), h3, (old, u), h4, rfl, h5.symm⟩

/-- `MemRead` changes nothing but the model's count of shared reads (R51). -/
theorem memRead_frame {s t : State} {addr v : Word} {z : Size} (h : memRead s addr z = .ok (v, t)) :
    t = { s with oracleTick := t.oracleTick } := by
  obtain ⟨r, -, -, h⟩ := memRead_eq_ok.1 h
  rcases loadBytes_eq_ok.1 h with ⟨-, rfl, -⟩ | ⟨-, rfl, -⟩ <;> rfl

/-- `MemWrite` changes the stored bytes alone, inside a writable region (R42). -/
theorem memWrite_frame {s t : State} {addr v : Word} {z : Size} (h : memWrite s addr z v = .ok t) :
    t = { s with mem := writeBytes s.mem addr.toNat (storedBytes s z v) } ∧
      ∃ r ∈ s.regions, r.writable = true ∧ r.base ≤ addr.toNat ∧ addr.toNat + z.bytes ≤ r.base + r.length ∧
        addr.toNat + z.bytes ≤ 2 ^ 64 := by
  obtain ⟨r, h1, -, rfl⟩ := memWrite_eq_ok.1 h
  obtain ⟨hb, hf, hp⟩ := checkRegion_eq_ok.1 h1
  obtain ⟨hm, h2, h3⟩ := findRegion_some hf
  exact ⟨rfl, r, hm, hp, h2, h3, hb⟩

/-- An atomic update changes the stored bytes alone, inside a writable region, and the model's count. -/
theorem atomicUpdate_frame {s t : State} {addr old : Word} {z : Size} {f : Word → Word}
    (h : atomicUpdate s addr z f = .ok (old, t)) :
    t = { s with
      mem := writeBytes s.mem addr.toNat (storedBytes s z (f old))
      oracleTick := t.oracleTick } ∧
      ∃ r ∈ s.regions, r.writable = true ∧ r.base ≤ addr.toNat ∧ addr.toNat + z.bytes ≤ r.base + r.length ∧
        addr.toNat + z.bytes ≤ 2 ^ 64 := by
  obtain ⟨r, q, u, -, h2, -, h4, rfl⟩ := atomicUpdate_eq_ok.1 h
  obtain ⟨hb, hf, hp⟩ := checkRegion_eq_ok.1 h2
  obtain ⟨hm, h5, h6⟩ := findRegion_some hf
  refine ⟨?_, q, hm, hp, h5, h6, hb⟩
  rcases loadBytes_eq_ok.1 h4 with ⟨-, rfl, -⟩ | ⟨-, rfl, -⟩ <;> rfl

/-- Among disjoint regions the one that holds the bytes is the one found (R43). -/
theorem findRegion_of_mem {rs : List Region} {r : Region} {a n : Nat} (h : regionsOk rs = true) (hr : r ∈ rs)
    (hn : 0 < n) (h1 : r.base ≤ a) (h2 : a + n ≤ r.base + r.length) : findRegion rs a n = some r ∧ a + n ≤ 2 ^ 64 := by
  simp only [regionsOk, Bool.and_eq_true, List.all_eq_true, decide_eq_true_eq] at h
  refine ⟨?_, by have := h.1 r hr; omega⟩
  have hp := h.2
  clear h
  induction rs with
  | nil => cases hr
  | cons x xs ih =>
    rw [List.pairwise_cons] at hp
    unfold findRegion
    rcases List.mem_cons.1 hr with rfl | hr
    · rw [List.find?_cons_of_pos]; simp; omega
    · rw [List.find?_cons_of_neg]
      · exact ih hr hp.2
      · have := hp.1 r hr; simp; omega

/-- Checks 1 and 2 pass in a region with the permission. -/
theorem checkRegion_of_mem {s : State} {r : Region} {addr : Word} {z : Size} {d : Access}
    (h : regionsOk s.regions = true) (hr : r ∈ s.regions) (h1 : r.base ≤ addr.toNat)
    (h2 : addr.toNat + z.bytes ≤ r.base + r.length) (hp : permits r d = true) : checkRegion s addr z d = .ok r := by
  obtain ⟨hf, hb⟩ := findRegion_of_mem h hr (size_pos z) h1 h2
  exact checkRegion_eq_ok.2 ⟨hb, hf, hp⟩

/-- The bytes of a shared read are the oracle's. -/
@[simp] theorem oracleBytes_length (tick a n : Nat) : (oracleBytes tick a n).length = n := by
  induction n generalizing a with
  | zero => rfl
  | succ n ih => simp [oracleBytes, ih]

theorem oracleBytes_getElem (tick a n i : Nat) (h : i < (oracleBytes tick a n).length) :
    (oracleBytes tick a n)[i] = Config.oracle tick (a + i) := by
  induction n generalizing a i with
  | zero => simp at h
  | succ n ih =>
    cases i with
    | zero => rfl
    | succ i =>
      simp only [oracleBytes, List.getElem_cons_succ]
      rw [ih, show a + 1 + i = a + (i + 1) by omega]

end Sys2Proof.Machine
end

