-- ==== Sys2Proof/Laws/Encoding.lean ====
section
/-! SUPPORT. The fields of a packed slot, register fields, and the opcode table. -/

namespace Sys2Proof

@[simp] theorem opcodeField_packSlot (op : BitVec 8) (d s : BitVec 4) (o : Off) (i : Imm) :
    opcodeField (packSlot op d s o i) = op := by
  apply BitVec.eq_of_getLsbD_eq; intro k hk
  simp only [opcodeField, packSlot, BitVec.getLsbD_extractLsb', BitVec.getLsbD_append]
  rw [if_pos (by omega), if_pos (by omega), if_pos (by omega), if_pos (by omega)]
  simp [hk]

@[simp] theorem dstField_packSlot (op : BitVec 8) (d s : BitVec 4) (o : Off) (i : Imm) :
    dstField (packSlot op d s o i) = d := by
  apply BitVec.eq_of_getLsbD_eq; intro k hk
  simp only [dstField, packSlot, BitVec.getLsbD_extractLsb', BitVec.getLsbD_append]
  rw [if_pos (by omega), if_pos (by omega), if_pos (by omega), if_neg (by omega)]
  simp [hk]

@[simp] theorem srcField_packSlot (op : BitVec 8) (d s : BitVec 4) (o : Off) (i : Imm) :
    srcField (packSlot op d s o i) = s := by
  apply BitVec.eq_of_getLsbD_eq; intro k hk
  simp only [srcField, packSlot, BitVec.getLsbD_extractLsb', BitVec.getLsbD_append]
  rw [if_pos (by omega), if_pos (by omega), if_neg (by omega), show 12 + k - (4 + 8) = k by omega]
  simp [hk]

@[simp] theorem offField_packSlot (op : BitVec 8) (d s : BitVec 4) (o : Off) (i : Imm) :
    offField (packSlot op d s o i) = o := by
  apply BitVec.eq_of_getLsbD_eq; intro k hk
  simp only [offField, packSlot, BitVec.getLsbD_extractLsb', BitVec.getLsbD_append]
  rw [if_pos (by omega), if_neg (by omega), show 16 + k - (4 + (4 + 8)) = k by omega]
  simp [hk]

@[simp] theorem immField_packSlot (op : BitVec 8) (d s : BitVec 4) (o : Off) (i : Imm) :
    immField (packSlot op d s o i) = i := by
  apply BitVec.eq_of_getLsbD_eq; intro k hk
  simp only [immField, packSlot, BitVec.getLsbD_extractLsb', BitVec.getLsbD_append]
  rw [if_neg (by omega), show 32 + k - (16 + (4 + (4 + 8))) = k by omega]
  simp [hk]

/-- A slot is its five fields, packed (R71). -/
theorem packSlot_fields (w : Word) :
    packSlot (opcodeField w) (dstField w) (srcField w) (offField w) (immField w) = w := by
  apply BitVec.eq_of_getLsbD_eq; intro k hk
  simp only [opcodeField, dstField, srcField, offField, immField, packSlot, BitVec.getLsbD_extractLsb',
    BitVec.getLsbD_append]
  by_cases h8 : k < 8
  · rw [if_pos (by omega), if_pos (by omega), if_pos (by omega), if_pos (by omega)]
    simp [h8]
  by_cases h12 : k < 12
  · rw [if_pos (by omega), if_pos (by omega), if_pos (by omega), if_neg (by omega), show 8 + (k - 8) = k by omega]
    simp [show k - 8 < 4 by omega]
  by_cases h16 : k < 16
  · rw [if_pos (by omega), if_pos (by omega), if_neg (by omega), show 12 + (k - (4 + 8)) = k by omega]
    simp [show k - 12 < 4 by omega]
  by_cases h32 : k < 32
  · rw [if_pos (by omega), if_neg (by omega), show 16 + (k - (4 + (4 + 8))) = k by omega]
    simp [show k - 16 < 16 by omega]
  · rw [if_neg (by omega), show 32 + (k - (16 + (4 + (4 + 8)))) = k by omega]
    simp [show k - 32 < 32 by omega]

@[simp] theorem regOfField_field (r : Reg) : regOfField r.field = .ok r := by cases r <;> rfl

/-- A register field that names a register holds its number (R22). -/
theorem field_of_regOfField {v : BitVec 4} {r : Reg} (h : regOfField v = .ok r) : r.field = v := by
  obtain ⟨⟨n, hn⟩⟩ := v
  interval_cases n <;> first | (cases h; rfl) | cases h

/-- The values 11 to 15 name no register (R22). -/
theorem regOfField_above {v : BitVec 4} (h : 10 < v.toNat) : regOfField v = .error .badRegister := by
  obtain ⟨⟨n, hn⟩⟩ := v
  have h10 : 10 < n := h
  interval_cases n <;> rfl

theorem lookupOpcode_mem {l : List (BitVec 8 × Form)} {op : BitVec 8} {f : Form} (h : lookupOpcode l op = some f) :
    (op, f) ∈ l := by
  induction l with
  | nil => simp [lookupOpcode] at h
  | cons x xs ih =>
    obtain ⟨k, g⟩ := x
    simp only [lookupOpcode] at h
    split at h
    · next e => simp_all
    · exact List.mem_cons_of_mem _ (ih h)

/-- A valid opcode is a row of the table (R87). -/
theorem formOf_mem {op : BitVec 8} {f : Form} (h : formOf op = some f) : (op, f) ∈ opcodeTable := lookupOpcode_mem h

end Sys2Proof
end

