-- ==== Sys2Proof/Laws/Decode.lean ====
section
/-! SUPPORT. What the decoder answers for a slot of each format, said once in each direction: the fields of a slot that
decodes, and the decoding of a packed slot. -/

namespace Sys2Proof

open Sys2Proof.Machine (bind_eq_ok)

@[simp] theorem require_eq_ok {c : Bool} {r : IllFormed} {u : Unit} : require c r = .ok u ↔ c = true := by
  cases c <;> simp [require]

@[simp] theorem wellFormedOr_eq_ok {p : Params} {i j : Instr} : wellFormedOr p i = .ok j ↔ i.WellFormed p ∧ j = i := by
  unfold wellFormedOr Instr.WellFormed
  cases i.illFormed? p <;> simp [eq_comm]

theorem regOfField_eq_ok {v : BitVec 4} {r : Reg} : regOfField v = .ok r ↔ v = r.field :=
  ⟨fun h => (field_of_regOfField h).symm, fun h => by rw [h]; exact regOfField_field r⟩

theorem decode_of_form {p : Params} {w : Word} {second : Option Word} {f : Form}
    (h : formOf (opcodeField w) = some f) : decode p w second = f.decode p w second := by
  simp only [decode, h]

/-- A register number of 10 is R10's. -/
theorem field_eq_ten {r : Reg} (h : 10 ≤ r.field.toNat) : r = .r10 := by
  cases r <;> first | rfl | exact absurd h (by decide)

/-- No register has a number above 10 (R22). -/
theorem field_le_ten (r : Reg) : r.field.toNat ≤ 10 := by cases r <;> decide

theorem decode_aluK_iff {p : Params} {w : Word} {second : Option Word} {i : Instr} {mk : Reg → Imm → Instr}
    (h : formOf (opcodeField w) = some (.aluK mk)) :
    decode p w second = .ok i ↔
      ∃ d, dstField w = d.field ∧ srcField w = 0 ∧ offField w = 0 ∧
        (mk d (immField w)).WellFormed p ∧ i = mk d (immField w) := by
  rw [decode_of_form h]
  simp only [Form.decode, bind_eq_ok, require_eq_ok, wellFormedOr_eq_ok, regOfField_eq_ok, Bool.and_eq_true, beq_iff_eq,
    exists_const]
  exact ⟨fun ⟨⟨hs, ho⟩, d, hd, hw, he⟩ => ⟨d, hd, hs, ho, hw, he⟩, fun ⟨d, hd, hs, ho, hw, he⟩ => ⟨⟨hs, ho⟩, d, hd, hw, he⟩⟩

theorem decode_aluX_iff {p : Params} {w : Word} {second : Option Word} {i : Instr} {mk : Reg → Reg → Instr}
    (h : formOf (opcodeField w) = some (.aluX mk)) :
    decode p w second = .ok i ↔
      ∃ d s, dstField w = d.field ∧ srcField w = s.field ∧ offField w = 0 ∧ immField w = 0 ∧
        (mk d s).WellFormed p ∧ i = mk d s := by
  rw [decode_of_form h]
  simp only [Form.decode, bind_eq_ok, require_eq_ok, wellFormedOr_eq_ok, regOfField_eq_ok, Bool.and_eq_true, beq_iff_eq,
    exists_const]
  exact ⟨fun ⟨⟨ho, hm⟩, d, hd, s, hs, hw, he⟩ => ⟨d, s, hd, hs, ho, hm, hw, he⟩, fun ⟨d, s, hd, hs, ho, hm, hw, he⟩ => ⟨⟨ho, hm⟩, d, hd, s, hs, hw, he⟩⟩

theorem decode_jccK_iff {p : Params} {w : Word} {second : Option Word} {i : Instr} {mk : Reg → Imm → Off → Instr}
    (h : formOf (opcodeField w) = some (.jccK mk)) :
    decode p w second = .ok i ↔
      ∃ d, dstField w = d.field ∧ srcField w = 0 ∧
        (mk d (immField w) (offField w)).WellFormed p ∧ i = mk d (immField w) (offField w) := by
  rw [decode_of_form h]
  simp only [Form.decode, bind_eq_ok, require_eq_ok, wellFormedOr_eq_ok, regOfField_eq_ok, beq_iff_eq,
    exists_const]
  exact ⟨fun ⟨hs, d, hd, hw, he⟩ => ⟨d, hd, hs, hw, he⟩, fun ⟨d, hd, hs, hw, he⟩ => ⟨hs, d, hd, hw, he⟩⟩

theorem decode_jccX_iff {p : Params} {w : Word} {second : Option Word} {i : Instr} {mk : Reg → Reg → Off → Instr}
    (h : formOf (opcodeField w) = some (.jccX mk)) :
    decode p w second = .ok i ↔
      ∃ d s, dstField w = d.field ∧ srcField w = s.field ∧ immField w = 0 ∧
        (mk d s (offField w)).WellFormed p ∧ i = mk d s (offField w) := by
  rw [decode_of_form h]
  simp only [Form.decode, bind_eq_ok, require_eq_ok, wellFormedOr_eq_ok, regOfField_eq_ok, beq_iff_eq,
    exists_const]
  exact ⟨fun ⟨hm, d, hd, s, hs, hw, he⟩ => ⟨d, s, hd, hs, hm, hw, he⟩, fun ⟨d, s, hd, hs, hm, hw, he⟩ => ⟨hm, d, hd, s, hs, hw, he⟩⟩

theorem decode_ldx_iff {p : Params} {w : Word} {second : Option Word} {i : Instr} {mk : Reg → Reg → Off → Instr}
    (h : formOf (opcodeField w) = some (.ldx mk)) :
    decode p w second = .ok i ↔
      ∃ d s, dstField w = d.field ∧ srcField w = s.field ∧ immField w = 0 ∧
        (mk d s (offField w)).WellFormed p ∧ i = mk d s (offField w) := by
  rw [decode_of_form h]
  simp only [Form.decode, bind_eq_ok, require_eq_ok, wellFormedOr_eq_ok, regOfField_eq_ok, beq_iff_eq,
    exists_const]
  exact ⟨fun ⟨hm, d, hd, s, hs, hw, he⟩ => ⟨d, s, hd, hs, hm, hw, he⟩, fun ⟨d, s, hd, hs, hm, hw, he⟩ => ⟨hm, d, hd, s, hs, hw, he⟩⟩

theorem decode_stx_iff {p : Params} {w : Word} {second : Option Word} {i : Instr} {mk : Reg → Reg → Off → Instr}
    (h : formOf (opcodeField w) = some (.stx mk)) :
    decode p w second = .ok i ↔
      ∃ d s, dstField w = d.field ∧ srcField w = s.field ∧ immField w = 0 ∧
        (mk d s (offField w)).WellFormed p ∧ i = mk d s (offField w) := by
  rw [decode_of_form h]
  simp only [Form.decode, bind_eq_ok, require_eq_ok, wellFormedOr_eq_ok, regOfField_eq_ok, beq_iff_eq,
    exists_const]
  exact ⟨fun ⟨hm, d, hd, s, hs, hw, he⟩ => ⟨d, s, hd, hs, hm, hw, he⟩, fun ⟨d, s, hd, hs, hm, hw, he⟩ => ⟨hm, d, hd, s, hs, hw, he⟩⟩

theorem decode_st_iff {p : Params} {w : Word} {second : Option Word} {i : Instr} {mk : Reg → Off → Imm → Instr}
    (h : formOf (opcodeField w) = some (.st mk)) :
    decode p w second = .ok i ↔
      ∃ d, dstField w = d.field ∧ srcField w = 0 ∧
        (mk d (offField w) (immField w)).WellFormed p ∧ i = mk d (offField w) (immField w) := by
  rw [decode_of_form h]
  simp only [Form.decode, bind_eq_ok, require_eq_ok, wellFormedOr_eq_ok, regOfField_eq_ok, beq_iff_eq,
    exists_const]
  exact ⟨fun ⟨hs, d, hd, hw, he⟩ => ⟨d, hd, hs, hw, he⟩, fun ⟨d, hd, hs, hw, he⟩ => ⟨hs, d, hd, hw, he⟩⟩

theorem decode_ja_iff {p : Params} {w : Word} {second : Option Word} {i : Instr} {mk : Off → Instr}
    (h : formOf (opcodeField w) = some (.ja mk)) :
    decode p w second = .ok i ↔
      dstField w = 0 ∧ srcField w = 0 ∧ immField w = 0 ∧
        (mk (offField w)).WellFormed p ∧ i = mk (offField w) := by
  rw [decode_of_form h]
  simp only [Form.decode, bind_eq_ok, require_eq_ok, wellFormedOr_eq_ok, Bool.and_eq_true, beq_iff_eq,
    exists_const]
  exact ⟨fun ⟨⟨⟨hd, hs⟩, hm⟩, hw, he⟩ => ⟨hd, hs, hm, hw, he⟩, fun ⟨hd, hs, hm, hw, he⟩ => ⟨⟨⟨hd, hs⟩, hm⟩, hw, he⟩⟩

theorem decode_call_iff {p : Params} {w : Word} {second : Option Word} {i : Instr} {mk : Imm → Instr}
    (h : formOf (opcodeField w) = some (.call mk)) :
    decode p w second = .ok i ↔
      dstField w = 0 ∧ srcField w = 0 ∧ offField w = 0 ∧
        (mk (immField w)).WellFormed p ∧ i = mk (immField w) := by
  rw [decode_of_form h]
  simp only [Form.decode, bind_eq_ok, require_eq_ok, wellFormedOr_eq_ok, Bool.and_eq_true, beq_iff_eq,
    exists_const]
  exact ⟨fun ⟨⟨⟨hd, hs⟩, ho⟩, hw, he⟩ => ⟨hd, hs, ho, hw, he⟩, fun ⟨hd, hs, ho, hw, he⟩ => ⟨⟨⟨hd, hs⟩, ho⟩, hw, he⟩⟩

theorem decode_exit_iff {p : Params} {w : Word} {second : Option Word} {i : Instr} {i₀ : Instr}
    (h : formOf (opcodeField w) = some (.exit i₀)) :
    decode p w second = .ok i ↔
      dstField w = 0 ∧ srcField w = 0 ∧ offField w = 0 ∧ immField w = 0 ∧
        (i₀).WellFormed p ∧ i = i₀ := by
  rw [decode_of_form h]
  simp only [Form.decode, bind_eq_ok, require_eq_ok, wellFormedOr_eq_ok, Bool.and_eq_true, beq_iff_eq,
    exists_const]
  exact ⟨fun ⟨⟨⟨⟨hd, hs⟩, ho⟩, hm⟩, hw, he⟩ => ⟨hd, hs, ho, hm, hw, he⟩, fun ⟨hd, hs, ho, hm, hw, he⟩ => ⟨⟨⟨⟨hd, hs⟩, ho⟩, hm⟩, hw, he⟩⟩

theorem decode_ldAbs_iff {p : Params} {w : Word} {second : Option Word} {i : Instr} {mk : Imm → Instr}
    (h : formOf (opcodeField w) = some (.ldAbs mk)) :
    decode p w second = .ok i ↔
      dstField w = 0 ∧ srcField w = 0 ∧ offField w = 0 ∧
        (mk (immField w)).WellFormed p ∧ i = mk (immField w) := by
  rw [decode_of_form h]
  simp only [Form.decode, bind_eq_ok, require_eq_ok, wellFormedOr_eq_ok, Bool.and_eq_true, beq_iff_eq,
    exists_const]
  exact ⟨fun ⟨⟨⟨hd, hs⟩, ho⟩, hw, he⟩ => ⟨hd, hs, ho, hw, he⟩, fun ⟨hd, hs, ho, hw, he⟩ => ⟨⟨⟨hd, hs⟩, ho⟩, hw, he⟩⟩

theorem decode_ldInd_iff {p : Params} {w : Word} {second : Option Word} {i : Instr} {mk : Reg → Imm → Instr}
    (h : formOf (opcodeField w) = some (.ldInd mk)) :
    decode p w second = .ok i ↔
      ∃ s, dstField w = 0 ∧ srcField w = s.field ∧ offField w = 0 ∧
        (mk s (immField w)).WellFormed p ∧ i = mk s (immField w) := by
  rw [decode_of_form h]
  simp only [Form.decode, bind_eq_ok, require_eq_ok, wellFormedOr_eq_ok, regOfField_eq_ok, Bool.and_eq_true, beq_iff_eq,
    exists_const]
  exact ⟨fun ⟨⟨hd, ho⟩, s, hs, hw, he⟩ => ⟨s, hd, hs, ho, hw, he⟩, fun ⟨s, hd, hs, ho, hw, he⟩ => ⟨⟨hd, ho⟩, s, hs, hw, he⟩⟩

/-- Format `END` (R86, R88). -/
theorem decode_byteSwap_iff {p : Params} {w : Word} {second : Option Word} {i : Instr}
    {pick : Imm → Option (Reg → Instr)} (h : formOf (opcodeField w) = some (.byteSwap pick)) :
    decode p w second = .ok i ↔
      ∃ d mk, dstField w = d.field ∧ d ≠ .r10 ∧ srcField w = 0 ∧ offField w = 0 ∧ pick (immField w) = some mk ∧
        (mk d).WellFormed p ∧ i = mk d := by
  rw [decode_of_form h]
  simp only [Form.decode, bind_eq_ok, require_eq_ok, regOfField_eq_ok, Bool.and_eq_true, beq_iff_eq, bne_iff_ne,
    exists_const]
  constructor
  · rintro ⟨⟨hs, ho⟩, d, hd, hn, hp⟩
    split at hp
    · next mk e => exact ⟨d, mk, hd, hn, hs, ho, e, wellFormedOr_eq_ok.1 hp⟩
    · cases hp
  · rintro ⟨d, mk, hd, hn, hs, ho, e, hw⟩
    exact ⟨⟨hs, ho⟩, d, hd, hn, by rw [e]; exact wellFormedOr_eq_ok.2 hw⟩

/-- Format `ATOMIC` (R86, R88). -/
theorem decode_atomic_iff {p : Params} {w : Word} {second : Option Word} {i : Instr}
    {pick : Imm → Option (Reg → Reg → Off → Instr)} (h : formOf (opcodeField w) = some (.atomic pick)) :
    decode p w second = .ok i ↔
      ∃ d s mk, dstField w = d.field ∧ srcField w = s.field ∧ pick (immField w) = some mk ∧
        (mk d s (offField w)).WellFormed p ∧ i = mk d s (offField w) := by
  rw [decode_of_form h]
  simp only [Form.decode, bind_eq_ok, regOfField_eq_ok]
  constructor
  · rintro ⟨d, hd, s, hs, hp⟩
    split at hp
    · next mk e => exact ⟨d, s, mk, hd, hs, e, wellFormedOr_eq_ok.1 hp⟩
    · cases hp
  · rintro ⟨d, s, mk, hd, hs, e, hw⟩
    exact ⟨d, hd, s, hs, by rw [e]; exact wellFormedOr_eq_ok.2 hw⟩

/-- The 64-bit immediate under either layout (R300, R301). -/
theorem decode_lddw_iff {p : Params} {w : Word} {second : Option Word} {i : Instr} {mk : Reg → Word → Instr}
    (h : formOf (opcodeField w) = some (.lddw mk)) :
    decode p w second = .ok i ↔
      ∃ d v, dstField w = d.field ∧ d ≠ .r10 ∧ srcField w = 0 ∧ offField w = 0 ∧ second = some v ∧
        ((p.lddwLayout = .sourceLiteral ∧ immField w = 0 ∧ (mk d v).WellFormed p ∧ i = mk d v) ∨
          (p.lddwLayout = .splitHalves ∧ v.extractLsb' 0 32 = 0#32 ∧ (mk d (immField v ++ immField w)).WellFormed p ∧
            i = mk d (immField v ++ immField w))) := by
  rw [decode_of_form h]
  simp only [Form.decode, bind_eq_ok, require_eq_ok, regOfField_eq_ok, Bool.and_eq_true, Bool.or_eq_true, beq_iff_eq,
    bne_iff_ne, exists_const]
  constructor
  · rintro ⟨⟨⟨hs, ho⟩, hl⟩, d, hd, hn, hp⟩
    split at hp
    · cases hp
    · next v hv =>
      rw [hv] at hl
      exact ⟨d, v, hd, hn, hs, ho, rfl, .inl ⟨hv, hl.resolve_left nofun, wellFormedOr_eq_ok.1 hp⟩⟩
    · next v hv =>
      simp only [bind_eq_ok, require_eq_ok, beq_iff_eq, exists_const] at hp
      exact ⟨d, v, hd, hn, hs, ho, rfl, .inr ⟨hv, hp.1, wellFormedOr_eq_ok.1 hp.2⟩⟩
  · rintro ⟨d, v, hd, hn, hs, ho, rfl, ⟨hv, hi, hw⟩ | ⟨hv, hz, hw⟩⟩
    · refine ⟨⟨⟨hs, ho⟩, .inr hi⟩, d, hd, hn, ?_⟩
      rw [hv]; exact wellFormedOr_eq_ok.2 hw
    · refine ⟨⟨⟨hs, ho⟩, .inl hv⟩, d, hd, hn, ?_⟩
      rw [hv]
      simp only [bind_eq_ok, require_eq_ok, beq_iff_eq, exists_const]
      exact ⟨hz, wellFormedOr_eq_ok.2 hw⟩

end Sys2Proof
end

