-- ==== Sys2Proof/Laws/Meanings.lean ====
section
/-! SUPPORT. What each shared body of a meaning can answer, said once. -/

namespace Sys2Proof.Machine

theorem first32_eq_ok {s : State} {r : Reg} {x : BitVec 32} :
    first32 s r = .ok x ↔ ∃ v, s.regs.get r = some v ∧ x = low32 v := by
  unfold first32 readReg
  cases s.regs.get r <;> simp [eq_comm]

theorem source64_x {s : State} {r : Reg} {v : Word} (h : s.regs.get r = some v) : source64 s (.x r) = .ok v :=
  readReg_of_some h

theorem first32_of_some {s : State} {r : Reg} {v : Word} (h : s.regs.get r = some v) :
    first32 s r = .ok (low32 v) := first32_eq_ok.2 ⟨v, h, rfl⟩

theorem first32_of_none {s : State} {r : Reg} (h : s.regs.get r = none) :
    first32 s r = .error (.uninitRegister r) := by
  simp [first32, readReg, h]

theorem source32_x {s : State} {r : Reg} {v : Word} (h : s.regs.get r = some v) :
    source32 s (.x r) = .ok (low32 v) := first32_of_some h

/-- Class `BPF_ALU64`: the result goes to the destination, `pc` advances by one slot, nothing else changes (R110). -/
theorem alu64_eq_ok {op : AluOp} {dst : Reg} {b : Source} {s t : State} :
    alu64 op dst b s = .ok t ↔ ∃ x y z, first64 s dst = .ok x ∧ source64 s b = .ok y ∧ op s.params x y = .ok z ∧
      t = advance (writeReg s dst z) 1 := by
  unfold alu64
  simp only [bind_eq_ok, pure, Except.pure, Except.ok.injEq]
  constructor
  · rintro ⟨x, h1, y, h2, z, h3, rfl⟩; exact ⟨x, y, z, h1, h2, h3, rfl⟩
  · rintro ⟨x, y, z, h1, h2, h3, rfl⟩; exact ⟨x, h1, y, h2, z, h3, rfl⟩

/-- Class `BPF_ALU`: the zero-extended result goes to the destination (R112). -/
theorem alu32_eq_ok {op : AluOp} {dst : Reg} {b : Source} {s t : State} :
    alu32 op dst b s = .ok t ↔ ∃ x y z, first32 s dst = .ok x ∧ source32 s b = .ok y ∧ op s.params x y = .ok z ∧
      t = advance (writeReg s dst (zext32 z)) 1 := by
  unfold alu32
  simp only [bind_eq_ok, pure, Except.pure, Except.ok.injEq]
  constructor
  · rintro ⟨x, h1, y, h2, z, h3, rfl⟩; exact ⟨x, y, z, h1, h2, h3, rfl⟩
  · rintro ⟨x, y, z, h1, h2, h3, rfl⟩; exact ⟨x, h1, y, h2, z, h3, rfl⟩

theorem mov64_eq_ok {dst : Reg} {b : Source} {s t : State} :
    mov64 dst b s = .ok t ↔ ∃ y, source64 s b = .ok y ∧ t = advance (writeReg s dst y) 1 := by
  unfold mov64
  simp only [bind_eq_ok, pure, Except.pure, Except.ok.injEq]
  constructor <;> (rintro ⟨y, h, rfl⟩; exact ⟨y, h, rfl⟩)

theorem mov32_eq_ok {dst : Reg} {b : Source} {s t : State} :
    mov32 dst b s = .ok t ↔ ∃ y, source32 s b = .ok y ∧ t = advance (writeReg s dst (zext32 y)) 1 := by
  unfold mov32
  simp only [bind_eq_ok, pure, Except.pure, Except.ok.injEq]
  constructor <;> (rintro ⟨y, h, rfl⟩; exact ⟨y, h, rfl⟩)

/-- `BPF_NEG` under either reading writes the destination and nothing else (R117). -/
theorem neg64_eq_ok {dst : Reg} {b : Source} {s t : State} (h : neg64 dst b s = .ok t) :
    ∃ z, t = advance (writeReg s dst z) 1 := by
  unfold neg64 at h
  split at h <;> simp only [bind_eq_ok, pure, Except.pure, Except.ok.injEq] at h <;>
    (obtain ⟨y, -, rfl⟩ := h; exact ⟨_, rfl⟩)

theorem neg32_eq_ok {dst : Reg} {b : Source} {s t : State} (h : neg32 dst b s = .ok t) :
    ∃ z, t = advance (writeReg s dst z) 1 := by
  unfold neg32 at h
  split at h <;> simp only [bind_eq_ok, pure, Except.pure, Except.ok.injEq] at h <;>
    (obtain ⟨y, -, rfl⟩ := h; exact ⟨_, rfl⟩)

theorem byteSwap_eq_ok {e : Endian} {n : Nat} {dst : Reg} {s t : State} :
    byteSwap e n dst s = .ok t ↔
      ∃ v, s.regs.get dst = some v ∧ t = advance (writeReg s dst (swapTo e n s.params.hostEndian v)) 1 := by
  unfold byteSwap
  simp only [bind_eq_ok, pure, Except.pure, Except.ok.injEq, readReg_eq_ok]
  constructor <;> (rintro ⟨y, h, rfl⟩; exact ⟨y, h, rfl⟩)

/-- A conditional jump ends at its target or at the next slot, and changes nothing but `pc` (R191, R196). -/
theorem jump64_eq_ok {c : Cond} {dst : Reg} {b : Source} {off : Off} {s t : State} :
    jump64 c dst b off s = .ok t ↔ ∃ x y, first64 s dst = .ok x ∧ source64 s b = .ok y ∧
      t = branch s (c.holds x y) off := by
  unfold jump64
  simp only [bind_eq_ok, pure, Except.pure, Except.ok.injEq]
  constructor
  · rintro ⟨x, h1, y, h2, rfl⟩; exact ⟨x, y, h1, h2, rfl⟩
  · rintro ⟨x, y, h1, h2, rfl⟩; exact ⟨x, h1, y, h2, rfl⟩

theorem jump32_eq_ok {c : Cond} {dst : Reg} {b : Source} {off : Off} {s t : State} :
    jump32 c dst b off s = .ok t ↔ ∃ x y, first32 s dst = .ok x ∧ source32 s b = .ok y ∧
      t = branch s (c.holds x y) off := by
  unfold jump32
  simp only [bind_eq_ok, pure, Except.pure, Except.ok.injEq]
  constructor
  · rintro ⟨x, h1, y, h2, rfl⟩; exact ⟨x, y, h1, h2, rfl⟩
  · rintro ⟨x, y, h1, h2, rfl⟩; exact ⟨x, h1, y, h2, rfl⟩

theorem branch_pc (s : State) (taken : Bool) (off : Off) :
    branch s taken off = { s with pc := if taken then s.pc + 1 + off.toInt else s.pc + 1 } := by
  cases taken <;> rfl

theorem loadReg_eq_ok {z : Size} {dst src : Reg} {off : Off} {s t : State} :
    loadReg z dst src off s = .ok t ↔ ∃ base v u, s.regs.get src = some base ∧
      memRead s (effAddr base off) z = .ok (v, u) ∧ t = advance (writeReg u dst v) 1 := by
  unfold loadReg
  simp only [bind_eq_ok, pure, Except.pure, Except.ok.injEq, readReg_eq_ok]
  constructor
  · rintro ⟨b, h1, ⟨v, u⟩, h2, rfl⟩; exact ⟨b, v, u, h1, h2, rfl⟩
  · rintro ⟨b, v, u, h1, h2, rfl⟩; exact ⟨b, h1, (v, u), h2, rfl⟩

theorem storeImm_eq_ok {z : Size} {dst : Reg} {off : Off} {imm : Imm} {s t : State} :
    storeImm z dst off imm s = .ok t ↔ ∃ base u, s.regs.get dst = some base ∧
      memWrite s (effAddr base off) z (sextImm imm) = .ok u ∧ t = advance u 1 := by
  unfold storeImm
  simp only [bind_eq_ok, pure, Except.pure, Except.ok.injEq, readReg_eq_ok]
  constructor
  · rintro ⟨b, h1, u, h2, rfl⟩; exact ⟨b, u, h1, h2, rfl⟩
  · rintro ⟨b, u, h1, h2, rfl⟩; exact ⟨b, h1, u, h2, rfl⟩

theorem storeReg_eq_ok {z : Size} {dst src : Reg} {off : Off} {s t : State} :
    storeReg z dst src off s = .ok t ↔ ∃ base v u, s.regs.get dst = some base ∧ s.regs.get src = some v ∧
      memWrite s (effAddr base off) z v = .ok u ∧ t = advance u 1 := by
  unfold storeReg
  simp only [bind_eq_ok, pure, Except.pure, Except.ok.injEq, readReg_eq_ok]
  constructor
  · rintro ⟨b, h1, v, h2, u, h3, rfl⟩; exact ⟨b, v, u, h1, h2, h3, rfl⟩
  · rintro ⟨b, v, u, h1, h2, h3, rfl⟩; exact ⟨b, h1, v, h2, u, h3, rfl⟩

theorem atomicAccess_eq_ok {z : Size} {dst src : Reg} {off : Off} {f : Word → Word → Word} {s t : State}
    {old : Word} :
    atomicAccess z dst src off f s = .ok (old, t) ↔ ∃ base v, s.regs.get dst = some base ∧
      s.regs.get src = some v ∧
      atomicUpdate s (effAddr base off) z (fun o => f o (atomicOperand z v)) = .ok (old, t) := by
  unfold atomicAccess
  simp only [bind_eq_ok, readReg_eq_ok]
  constructor
  · rintro ⟨b, h1, v, h2, h3⟩; exact ⟨b, v, h1, h2, h3⟩
  · rintro ⟨b, v, h1, h2, h3⟩; exact ⟨b, h1, v, h2, h3⟩

theorem atomicPlain_eq_ok {z : Size} {f : Word → Word → Word} {dst src : Reg} {off : Off} {s t : State} :
    atomicPlain z f dst src off s = .ok t ↔ ∃ old u, atomicAccess z dst src off f s = .ok (old, u) ∧
      t = advance u 1 := by
  unfold atomicPlain
  simp only [bind_eq_ok, pure, Except.pure, Except.ok.injEq]
  constructor
  · rintro ⟨⟨o, u⟩, h, rfl⟩; exact ⟨o, u, h, rfl⟩
  · rintro ⟨o, u, h, rfl⟩; exact ⟨(o, u), h, rfl⟩

theorem atomicFetch_eq_ok {z : Size} {f : Word → Word → Word} {dst src : Reg} {off : Off} {s t : State} :
    atomicFetch z f dst src off s = .ok t ↔ ∃ old u, atomicAccess z dst src off f s = .ok (old, u) ∧
      t = advance (writeReg u src old) 1 := by
  unfold atomicFetch
  simp only [bind_eq_ok, pure, Except.pure, Except.ok.injEq]
  constructor
  · rintro ⟨⟨o, u⟩, h, rfl⟩; exact ⟨o, u, h, rfl⟩
  · rintro ⟨o, u, h, rfl⟩; exact ⟨(o, u), h, rfl⟩

theorem atomicCompare_eq_ok {z : Size} {dst src : Reg} {off : Off} {s t : State} :
    atomicCompare z dst src off s = .ok t ↔ ∃ base v r old u, s.regs.get dst = some base ∧
      s.regs.get src = some v ∧ s.regs.get .r0 = some r ∧
      atomicUpdate s (effAddr base off) z
        (fun o => if o = atomicOperand z r then atomicOperand z v else o) = .ok (old, u) ∧
      t = advance (writeReg u .r0 old) 1 := by
  unfold atomicCompare
  simp only [bind_eq_ok, pure, Except.pure, Except.ok.injEq, readReg_eq_ok]
  constructor
  · rintro ⟨b, h1, v, h2, r, h3, ⟨o, u⟩, h4, rfl⟩; exact ⟨b, v, r, o, u, h1, h2, h3, h4, rfl⟩
  · rintro ⟨b, v, r, o, u, h1, h2, h3, h4, rfl⟩; exact ⟨b, h1, v, h2, r, h3, (o, u), h4, rfl⟩

/-- A legacy load ends in `Abort`, or with R0 loaded and R1 to R5 clobbered (R307, R308). -/
theorem packetLoad_eq_ok {z : Size} {x6 : Word} {o : Int} {s t : State} :
    packetLoad z x6 o s = .ok t ↔ ∃ p, packetOf s x6 = .ok p ∧
      ((packetBytes p o z.bytes = none ∧ t = { s with outcome := .abort }) ∨
       ∃ bs, packetBytes p o z.bytes = some bs ∧ t = advance (clobberArgs (writeReg s .r0 (joinBE bs))) 1) := by
  unfold packetLoad
  simp only [bind_eq_ok]
  refine exists_congr fun p => and_congr_right fun _ => ?_
  cases packetBytes p o z.bytes <;> simp [pure, Except.pure, eq_comm]

theorem packetOf_eq_ok {s : State} {x6 : Word} {p : Packet} :
    packetOf s x6 = .ok p ↔ s.packet = some p ∧ x6 = p.designator := by
  unfold packetOf
  cases s.packet with
  | none => simp
  | some q =>
    dsimp only
    by_cases h : x6 = q.designator
    · rw [if_pos h]; constructor
      · intro e; cases e; exact ⟨rfl, h⟩
      · rintro ⟨e, -⟩; cases e; rfl
    · rw [if_neg h]; constructor
      · intro e; cases e
      · rintro ⟨e, e'⟩; cases e; exact absurd e' h

theorem loadAbs_eq_ok {z : Size} {imm : Imm} {s t : State} :
    loadAbs z imm s = .ok t ↔ ∃ x6, s.regs.get .r6 = some x6 ∧ packetLoad z x6 imm.toInt s = .ok t := by
  unfold loadAbs
  simp only [bind_eq_ok, readReg_eq_ok]

theorem loadInd_eq_ok {z : Size} {src : Reg} {imm : Imm} {s t : State} :
    loadInd z src imm s = .ok t ↔ ∃ x6 v, s.regs.get .r6 = some x6 ∧ s.regs.get src = some v ∧
      packetLoad z x6 (v + sextImm imm).toInt s = .ok t := by
  unfold loadInd
  simp only [bind_eq_ok, readReg_eq_ok]
  constructor
  · rintro ⟨a, h1, v, h2, h3⟩; exact ⟨a, v, h1, h2, h3⟩
  · rintro ⟨a, v, h1, h2, h3⟩; exact ⟨a, h1, v, h2, h3⟩

theorem exitProgram_eq_ok {s t : State} :
    exitProgram s = .ok t ↔ ∃ v, s.regs.get .r0 = some v ∧ t = { s with outcome := .exit v } := by
  unfold exitProgram
  simp only [bind_eq_ok, pure, Except.pure, Except.ok.injEq, readReg_eq_ok]
  constructor <;> (rintro ⟨y, h, rfl⟩; exact ⟨y, h, rfl⟩)

/-- A call ends with the function's effects, R0 and the clobbered registers (R244). -/
theorem callHelper_eq_ok {n : Imm} {s t : State} :
    callHelper n s = .ok t ↔ ∃ h v u, findHelper s.helpers n = some h ∧ applyHelper h s = .ok (v, u) ∧
      t = advance (clobberArgs (writeReg u .r0 v)) 1 := by
  unfold callHelper
  cases findHelper s.helpers n with
  | none => simp
  | some h =>
    simp only [bind_eq_ok, pure, Except.pure, Except.ok.injEq, Option.some.injEq]
    constructor
    · rintro ⟨⟨v, u⟩, h1, rfl⟩; exact ⟨h, v, u, rfl, h1, rfl⟩
    · rintro ⟨_, v, u, rfl, h1, rfl⟩; exact ⟨(v, u), h1, rfl⟩

/-- A called function reads the arguments it always reads, then runs its body over them (R244). -/
theorem applyHelper_eq_ok {h : Helper} {s t : State} {v : Word} :
    applyHelper h s = .ok (v, t) ↔ ∃ args, readRegs s (argRegs h.reads) = .ok args ∧
      runHelper h.number (helperBody h args s.mem) args s = .ok (v, t) := by
  unfold applyHelper
  rw [bind_eq_ok]

/-- Registers read where each of them holds a value. -/
theorem readRegs_of_get {s : State} {rs : List Reg} {vs : List Word} (h : rs.map s.regs.get = vs.map some) :
    readRegs s rs = .ok vs := by
  induction rs generalizing vs with
  | nil =>
    cases vs with
    | nil => rfl
    | cons => simp at h
  | cons r rs ih =>
    cases vs with
    | nil => simp at h
    | cons v vs =>
      simp only [List.map_cons, List.cons.injEq] at h
      simp [readRegs, readReg, h.1, ih h.2, bind, Except.bind, pure, Except.pure]

/-- The first register that holds `novalue` is the one reported (R323 step 3). -/
theorem readRegs_of_none {s : State} {pre post : List Reg} {r : Reg} (h : ∀ q ∈ pre, (s.regs.get q).isSome = true)
    (hr : s.regs.get r = none) : readRegs s (pre ++ r :: post) = .error (.uninitRegister r) := by
  induction pre with
  | nil => simp [readRegs, readReg, hr, bind, Except.bind]
  | cons q pre ih =>
    obtain ⟨v, hv⟩ := Option.isSome_iff_exists.1 (h q (by simp))
    simp [readRegs, readReg, hv, ih (fun q hq => h q (by simp [hq])), bind, Except.bind]

end Sys2Proof.Machine
end

