-- ==== Sys2Proof/Laws/Effect.lean ====
section
/-! SUPPORT. What any body of a meaning leaves as it was: one relation, kept by every shared operation and body. -/

namespace Sys2Proof.Machine

/-- `t` differs from `s` only as instructions may make it differ: the setting is the same, memory keeps its canonical
form and its bytes in regions, and only bytes of writable regions differ. -/
structure Bounded (s t : State) : Prop where
  setting : SameSetting s t
  memWf : s.mem.wf = true → t.mem.wf = true
  cells : cellsInRegions s.regions s.mem = true → cellsInRegions s.regions t.mem = true
  bytes : ∀ a, readByte t.mem a ≠ readByte s.mem a → ∃ r ∈ s.regions, r.writable = true ∧ inRegion r a = true

theorem SameSetting.refl (s : State) : SameSetting s s := ⟨rfl, rfl, rfl, rfl, rfl, rfl, rfl⟩

theorem SameSetting.trans {s t u : State} (h : SameSetting s t) (k : SameSetting t u) : SameSetting s u :=
  ⟨k.1.trans h.1, k.2.trans h.2, k.3.trans h.3, k.4.trans h.4, k.5.trans h.5, k.6.trans h.6, k.7.trans h.7⟩

theorem Bounded.refl (s : State) : Bounded s s := ⟨.refl s, id, id, fun _ h => absurd rfl h⟩

theorem Bounded.trans {s t u : State} (h : Bounded s t) (k : Bounded t u) : Bounded s u := by
  refine ⟨h.1.trans k.1, fun w => k.2 (h.2 w), fun c => ?_, fun a ha => ?_⟩
  · have := k.3; rw [h.1.regions] at this; exact this (h.3 c)
  · by_cases e : readByte t.mem a = readByte s.mem a
    · have := k.4 a (by rw [e]; exact ha); rw [h.1.regions] at this; exact this
    · exact h.4 a e

/-- A state with the same setting and the same memory. -/
theorem Bounded.of_mem {s t : State} (h : SameSetting s t) (hm : t.mem = s.mem) : Bounded s t :=
  ⟨h, fun w => by rw [hm]; exact w, fun c => by rw [hm]; exact c, fun a ha => absurd (by rw [hm]) ha⟩

theorem bounded_writeReg (s : State) (r : Reg) (v : Word) : Bounded s (writeReg s r v) :=
  .of_mem ⟨rfl, rfl, rfl, rfl, rfl, rfl, r10_set _ _ _⟩ rfl

theorem bounded_clobberArgs (s : State) : Bounded s (clobberArgs s) :=
  .of_mem ⟨rfl, rfl, rfl, rfl, rfl, rfl, rfl⟩ rfl

theorem bounded_advance (s : State) (n : Int) : Bounded s (advance s n) :=
  .of_mem ⟨rfl, rfl, rfl, rfl, rfl, rfl, rfl⟩ rfl

theorem bounded_jumpTo (s : State) (o : Off) : Bounded s (jumpTo s o) :=
  .of_mem ⟨rfl, rfl, rfl, rfl, rfl, rfl, rfl⟩ rfl

theorem bounded_branch (s : State) (b : Bool) (o : Off) : Bounded s (branch s b o) := by
  cases b
  · exact bounded_advance s 1
  · exact bounded_jumpTo s o

theorem bounded_outcome (s : State) (o : RunOutcome) : Bounded s { s with outcome := o } :=
  .of_mem ⟨rfl, rfl, rfl, rfl, rfl, rfl, rfl⟩ rfl

theorem bounded_raise (s : State) (f : Fault) : Bounded s (raise s f) := bounded_outcome s _

theorem bounded_memRead {s t : State} {addr v : Word} {z : Size} (h : memRead s addr z = .ok (v, t)) :
    Bounded s t := by
  rw [memRead_frame h]; exact .of_mem ⟨rfl, rfl, rfl, rfl, rfl, rfl, rfl⟩ rfl

/-- A store inside a writable region. -/
theorem bounded_writeBytes {s t : State} {a : Nat} {bs : List Byte} {r : Region} (hs : SameSetting s t)
    (hm : t.mem = writeBytes s.mem a bs) (hr : r ∈ s.regions) (hw : r.writable = true) (h1 : r.base ≤ a)
    (h2 : a + bs.length ≤ r.base + r.length) (h3 : a + bs.length ≤ 2 ^ 64) : Bounded s t := by
  refine ⟨hs, fun w => ?_, fun c => ?_, fun b hb => ⟨r, hr, hw, ?_⟩⟩
  · rw [hm]; exact wf_writeBytes w h3
  · rw [hm]; exact cellsInRegions_writeBytes c hr h1 h2
  · by_contra hn
    apply hb
    rw [hm]
    apply readByte_writeBytes_outside
    simp [inRegion] at hn
    omega

theorem bounded_memWrite {s t : State} {addr v : Word} {z : Size} (h : memWrite s addr z v = .ok t) :
    Bounded s t := by
  obtain ⟨ht, r, hr, hw, h1, h2, h3⟩ := memWrite_frame h
  subst ht
  exact bounded_writeBytes ⟨rfl, rfl, rfl, rfl, rfl, rfl, rfl⟩ rfl hr hw h1 (by simpa using h2) (by simpa using h3)

theorem bounded_atomicUpdate {s t : State} {addr old : Word} {z : Size} {f : Word → Word}
    (h : atomicUpdate s addr z f = .ok (old, t)) : Bounded s t := by
  obtain ⟨ht, r, hr, hw, h1, h2, h3⟩ := atomicUpdate_frame h
  rw [ht]
  exact bounded_writeBytes ⟨rfl, rfl, rfl, rfl, rfl, rfl, rfl⟩ rfl hr hw h1 (by simpa using h2) (by simpa using h3)

theorem bounded_atomicAccess {s t : State} {old : Word} {z : Size} {dst src : Reg} {off : Off}
    {f : Word → Word → Word} (h : atomicAccess z dst src off f s = .ok (old, t)) : Bounded s t := by
  obtain ⟨_, _, -, -, h⟩ := atomicAccess_eq_ok.1 h
  exact bounded_atomicUpdate h

/-- The body of a called function: memory through the primitives, and no register (R59, R244). -/
theorem bounded_runHelper {n : Imm} {body : HelperBody} {vals : List Word} {s t : State} {v : Word}
    (h : runHelper n body vals s = .ok (v, t)) : Bounded s t ∧ t.regs = s.regs ∧ t.pc = s.pc ∧
      t.outcome = s.outcome := by
  induction body generalizing vals s with
  | ret e => cases h; exact ⟨.refl _, rfl, rfl, rfl⟩
  | fail i => cases h
  | readArgs rs next ih =>
    simp only [runHelper, bind_eq_ok] at h
    obtain ⟨_, -, h⟩ := h
    exact ih h
  | load addr z next ih =>
    simp only [runHelper, bind_eq_ok] at h
    obtain ⟨⟨w, u⟩, h1, h2⟩ := h
    obtain ⟨hb, hr, hp, ho⟩ := ih h2
    have hf := memRead_frame h1
    refine ⟨(bounded_memRead h1).trans hb, ?_, ?_, ?_⟩
    · rw [hr, hf]
    · rw [hp, hf]
    · rw [ho, hf]
  | store addr z val next ih =>
    simp only [runHelper, bind_eq_ok] at h
    obtain ⟨u, h1, h2⟩ := h
    obtain ⟨hb, hr, hp, ho⟩ := ih h2
    have hf := (memWrite_frame h1).1
    refine ⟨(bounded_memWrite h1).trans hb, ?_, ?_, ?_⟩
    · rw [hr, hf]
    · rw [hp, hf]
    · rw [ho, hf]
  | branch c yes no ihYes ihNo =>
    simp only [runHelper] at h
    split at h
    · exact ihNo h
    · exact ihYes h

theorem bounded_applyHelper {g : Helper} {s t : State} {v : Word} (h : applyHelper g s = .ok (v, t)) :
    Bounded s t ∧ t.regs = s.regs ∧ t.pc = s.pc ∧ t.outcome = s.outcome := by
  obtain ⟨_, -, h⟩ := applyHelper_eq_ok.1 h
  exact bounded_runHelper h

/-- Every body that ends in a register write and an advance. -/
theorem bounded_writeReg_advance (s : State) (r : Reg) (v : Word) (n : Int) :
    Bounded s (advance (writeReg s r v) n) := (bounded_writeReg s r v).trans (bounded_advance _ n)

theorem bounded_loadReg {z : Size} {dst src : Reg} {off : Off} {s t : State} (h : loadReg z dst src off s = .ok t) :
    Bounded s t := by
  obtain ⟨_, v, u, -, k, rfl⟩ := loadReg_eq_ok.1 h
  exact (bounded_memRead k).trans (bounded_writeReg_advance u dst v 1)

theorem bounded_storeImm {z : Size} {dst : Reg} {off : Off} {imm : Imm} {s t : State}
    (h : storeImm z dst off imm s = .ok t) : Bounded s t := by
  obtain ⟨_, u, -, k, rfl⟩ := storeImm_eq_ok.1 h
  exact (bounded_memWrite k).trans (bounded_advance u 1)

theorem bounded_storeReg {z : Size} {dst src : Reg} {off : Off} {s t : State}
    (h : storeReg z dst src off s = .ok t) : Bounded s t := by
  obtain ⟨_, _, u, -, -, k, rfl⟩ := storeReg_eq_ok.1 h
  exact (bounded_memWrite k).trans (bounded_advance u 1)

theorem bounded_atomicPlain {z : Size} {f : Word → Word → Word} {dst src : Reg} {off : Off} {s t : State}
    (h : atomicPlain z f dst src off s = .ok t) : Bounded s t := by
  obtain ⟨_, u, k, rfl⟩ := atomicPlain_eq_ok.1 h
  exact (bounded_atomicAccess k).trans (bounded_advance u 1)

theorem bounded_atomicFetch {z : Size} {f : Word → Word → Word} {dst src : Reg} {off : Off} {s t : State}
    (h : atomicFetch z f dst src off s = .ok t) : Bounded s t := by
  obtain ⟨v, u, k, rfl⟩ := atomicFetch_eq_ok.1 h
  exact (bounded_atomicAccess k).trans (bounded_writeReg_advance u src v 1)

theorem bounded_atomicCompare {z : Size} {dst src : Reg} {off : Off} {s t : State}
    (h : atomicCompare z dst src off s = .ok t) : Bounded s t := by
  obtain ⟨_, _, _, v, u, -, -, -, k, rfl⟩ := atomicCompare_eq_ok.1 h
  exact (bounded_atomicUpdate k).trans (bounded_writeReg_advance u .r0 v 1)

theorem bounded_packetLoad {z : Size} {x6 : Word} {o : Int} {s t : State} (h : packetLoad z x6 o s = .ok t) :
    Bounded s t := by
  obtain ⟨p, -, ⟨-, rfl⟩ | ⟨bs, -, rfl⟩⟩ := packetLoad_eq_ok.1 h
  · exact bounded_outcome s _
  · exact ((bounded_writeReg s .r0 _).trans (bounded_clobberArgs _)).trans (bounded_advance _ 1)

theorem bounded_callHelper {n : Imm} {s t : State} (h : callHelper n s = .ok t) : Bounded s t := by
  obtain ⟨g, v, u, -, k, rfl⟩ := callHelper_eq_ok.1 h
  exact (((bounded_applyHelper k).1.trans (bounded_writeReg u .r0 v)).trans (bounded_clobberArgs _)).trans
    (bounded_advance _ 1)

end Sys2Proof.Machine
end

