-- ==== Sys2Proof/Laws/Fetch.lean ====
section
/-! SUPPORT. The fetch: what it answers where `pc` names a slot, and that slots put where the next step fetches are
found there. -/

namespace Sys2Proof.Machine

/-- The walk over one more slot (R90 step 1). -/
theorem endsInWide_append (b : Bool) (l : List Word) (w : Word) :
    endsInWide b (l ++ [w]) = (!endsInWide b l && isWide w) := by
  induction l generalizing b with
  | nil => rfl
  | cons x l ih => simp [endsInWide, ih]

/-- A fetch of a slot that starts an instruction is the decoding of that slot and the next (R90). -/
theorem fetch_of_slot {s : State} {k : Nat} {w : Word} (hp : s.pc = k) (hw : s.program[k]? = some w)
    (hs : isSecondSlot s.program k = false) :
    fetch s = (decode s.params w s.program[k + 1]?).mapError (fun r => .illegalInstruction r w) := by
  have hk : k < s.program.length := by
    rw [List.getElem?_eq_some_iff] at hw; exact hw.1
  unfold fetch
  rw [if_neg]
  · simp only [hp, Int.toNat_natCast, decodeAt, List.getD, hw, Option.getD_some, slotAtPc]
    rw [if_neg (by omega)]
    cases decode s.params w s.program[k + 1]? <;> rfl
  · simp only [hp, Int.toNat_natCast, hs]; simp; omega

/-- The slots before slot `n` are `n` slots, and slot `n` is no second slot after them. -/
theorem slotsBefore_spec (program : List Word) (n : Nat) :
    (slotsBefore program n).length = n ∧ endsInWide false (slotsBefore program n) = false := by
  unfold slotsBefore
  have hq : (program.take n ++ List.replicate (n - program.length) (0 : Word)).length = n := by simp; omega
  generalize program.take n ++ List.replicate (n - program.length) (0 : Word) = q at hq
  simp only
  split
  · next h =>
    have hne : q ≠ [] := by rintro rfl; simp [endsInWide] at h
    have : 0 < q.length := List.length_pos_of_ne_nil hne
    refine ⟨by simp; omega, ?_⟩
    rw [endsInWide_append]; simp [isWide, opcodeField]
  · next h => exact ⟨hq, by simpa using h⟩

/-- Slots put at `pc` are fetched from there (log entry 8). -/
theorem fetch_withFetchWord (s : State) (nbits w : Nat) :
    fetch (s.withFetchWord nbits w) =
      (decode s.params (tableSlot nbits w 0) (some (tableSlot nbits w 1))).mapError
        (fun r => .illegalInstruction r (tableSlot nbits w 0)) := by
  obtain ⟨hl, hs⟩ := slotsBefore_spec s.program s.pc.toNat
  have h := fetch_of_slot (s := s.withFetchWord nbits w) (k := s.pc.toNat) (w := tableSlot nbits w 0) rfl
    (by simp [State.withFetchWord, placeSlots, hl])
    (by simp only [State.withFetchWord, placeSlots, isSecondSlot]
        rw [List.take_append_of_le_length (by omega), List.take_of_length_le (by omega), hs])
  rw [h]
  have e : (s.withFetchWord nbits w).program[s.pc.toNat + 1]? = some (tableSlot nbits w 1) := by
    simp [State.withFetchWord, placeSlots, hl]
  rw [e]; rfl

end Sys2Proof.Machine
end

