-- ==== Sys2Proof/Laws/PerInstr.lean ====
section
/-! SUPPORT. A statement about every instruction as syntax, one lemma per constructor. -/

namespace Sys2Proof.Laws.EncodedShape

/-- The first slot of an instruction carries a valid opcode (R87); there is a second slot exactly where that opcode is
the wide one's (R70, R75). -/
def Statement (i : Instr) : Prop :=
  ∀ p, ∃ w rest, encode p i = w :: rest ∧ (formOf (opcodeField w)).isSome = true ∧
    rest.length = if isWide w then 1 else 0

/-- An instruction of one slot. -/
theorem of_single {i : Instr} {op : BitVec 8} {d s : BitVec 4} {o : Off} {m : Imm}
    (h : ∀ p, encode p i = [packSlot op d s o m]) (hf : (formOf op).isSome = true) (hw : (op == 0x18#8) = false) :
    Statement i := by
  intro p
  refine ⟨_, _, h p, by simpa using hf, ?_⟩
  simp [isWide, hw]

theorem add32K (dst : Reg) (imm : Imm) : Statement (.add32K dst imm) :=
  of_single (fun _ => rfl) rfl rfl

theorem add32X (dst src : Reg) : Statement (.add32X dst src) :=
  of_single (fun _ => rfl) rfl rfl

theorem add64K (dst : Reg) (imm : Imm) : Statement (.add64K dst imm) :=
  of_single (fun _ => rfl) rfl rfl

theorem add64X (dst src : Reg) : Statement (.add64X dst src) :=
  of_single (fun _ => rfl) rfl rfl

theorem sub32K (dst : Reg) (imm : Imm) : Statement (.sub32K dst imm) :=
  of_single (fun _ => rfl) rfl rfl

theorem sub32X (dst src : Reg) : Statement (.sub32X dst src) :=
  of_single (fun _ => rfl) rfl rfl

theorem sub64K (dst : Reg) (imm : Imm) : Statement (.sub64K dst imm) :=
  of_single (fun _ => rfl) rfl rfl

theorem sub64X (dst src : Reg) : Statement (.sub64X dst src) :=
  of_single (fun _ => rfl) rfl rfl

theorem mul32K (dst : Reg) (imm : Imm) : Statement (.mul32K dst imm) :=
  of_single (fun _ => rfl) rfl rfl

theorem mul32X (dst src : Reg) : Statement (.mul32X dst src) :=
  of_single (fun _ => rfl) rfl rfl

theorem mul64K (dst : Reg) (imm : Imm) : Statement (.mul64K dst imm) :=
  of_single (fun _ => rfl) rfl rfl

theorem mul64X (dst src : Reg) : Statement (.mul64X dst src) :=
  of_single (fun _ => rfl) rfl rfl

theorem div32K (dst : Reg) (imm : Imm) : Statement (.div32K dst imm) :=
  of_single (fun _ => rfl) rfl rfl

theorem div32X (dst src : Reg) : Statement (.div32X dst src) :=
  of_single (fun _ => rfl) rfl rfl

theorem div64K (dst : Reg) (imm : Imm) : Statement (.div64K dst imm) :=
  of_single (fun _ => rfl) rfl rfl

theorem div64X (dst src : Reg) : Statement (.div64X dst src) :=
  of_single (fun _ => rfl) rfl rfl

theorem or32K (dst : Reg) (imm : Imm) : Statement (.or32K dst imm) :=
  of_single (fun _ => rfl) rfl rfl

theorem or32X (dst src : Reg) : Statement (.or32X dst src) :=
  of_single (fun _ => rfl) rfl rfl

theorem or64K (dst : Reg) (imm : Imm) : Statement (.or64K dst imm) :=
  of_single (fun _ => rfl) rfl rfl

theorem or64X (dst src : Reg) : Statement (.or64X dst src) :=
  of_single (fun _ => rfl) rfl rfl

theorem and32K (dst : Reg) (imm : Imm) : Statement (.and32K dst imm) :=
  of_single (fun _ => rfl) rfl rfl

theorem and32X (dst src : Reg) : Statement (.and32X dst src) :=
  of_single (fun _ => rfl) rfl rfl

theorem and64K (dst : Reg) (imm : Imm) : Statement (.and64K dst imm) :=
  of_single (fun _ => rfl) rfl rfl

theorem and64X (dst src : Reg) : Statement (.and64X dst src) :=
  of_single (fun _ => rfl) rfl rfl

theorem lsh32K (dst : Reg) (imm : Imm) : Statement (.lsh32K dst imm) :=
  of_single (fun _ => rfl) rfl rfl

theorem lsh32X (dst src : Reg) : Statement (.lsh32X dst src) :=
  of_single (fun _ => rfl) rfl rfl

theorem lsh64K (dst : Reg) (imm : Imm) : Statement (.lsh64K dst imm) :=
  of_single (fun _ => rfl) rfl rfl

theorem lsh64X (dst src : Reg) : Statement (.lsh64X dst src) :=
  of_single (fun _ => rfl) rfl rfl

theorem rsh32K (dst : Reg) (imm : Imm) : Statement (.rsh32K dst imm) :=
  of_single (fun _ => rfl) rfl rfl

theorem rsh32X (dst src : Reg) : Statement (.rsh32X dst src) :=
  of_single (fun _ => rfl) rfl rfl

theorem rsh64K (dst : Reg) (imm : Imm) : Statement (.rsh64K dst imm) :=
  of_single (fun _ => rfl) rfl rfl

theorem rsh64X (dst src : Reg) : Statement (.rsh64X dst src) :=
  of_single (fun _ => rfl) rfl rfl

theorem neg32K (dst : Reg) (imm : Imm) : Statement (.neg32K dst imm) :=
  of_single (fun _ => rfl) rfl rfl

theorem neg32X (dst src : Reg) : Statement (.neg32X dst src) :=
  of_single (fun _ => rfl) rfl rfl

theorem neg64K (dst : Reg) (imm : Imm) : Statement (.neg64K dst imm) :=
  of_single (fun _ => rfl) rfl rfl

theorem neg64X (dst src : Reg) : Statement (.neg64X dst src) :=
  of_single (fun _ => rfl) rfl rfl

theorem mod32K (dst : Reg) (imm : Imm) : Statement (.mod32K dst imm) :=
  of_single (fun _ => rfl) rfl rfl

theorem mod32X (dst src : Reg) : Statement (.mod32X dst src) :=
  of_single (fun _ => rfl) rfl rfl

theorem mod64K (dst : Reg) (imm : Imm) : Statement (.mod64K dst imm) :=
  of_single (fun _ => rfl) rfl rfl

theorem mod64X (dst src : Reg) : Statement (.mod64X dst src) :=
  of_single (fun _ => rfl) rfl rfl

theorem xor32K (dst : Reg) (imm : Imm) : Statement (.xor32K dst imm) :=
  of_single (fun _ => rfl) rfl rfl

theorem xor32X (dst src : Reg) : Statement (.xor32X dst src) :=
  of_single (fun _ => rfl) rfl rfl

theorem xor64K (dst : Reg) (imm : Imm) : Statement (.xor64K dst imm) :=
  of_single (fun _ => rfl) rfl rfl

theorem xor64X (dst src : Reg) : Statement (.xor64X dst src) :=
  of_single (fun _ => rfl) rfl rfl

theorem mov32K (dst : Reg) (imm : Imm) : Statement (.mov32K dst imm) :=
  of_single (fun _ => rfl) rfl rfl

theorem mov32X (dst src : Reg) : Statement (.mov32X dst src) :=
  of_single (fun _ => rfl) rfl rfl

theorem mov64K (dst : Reg) (imm : Imm) : Statement (.mov64K dst imm) :=
  of_single (fun _ => rfl) rfl rfl

theorem mov64X (dst src : Reg) : Statement (.mov64X dst src) :=
  of_single (fun _ => rfl) rfl rfl

theorem arsh32K (dst : Reg) (imm : Imm) : Statement (.arsh32K dst imm) :=
  of_single (fun _ => rfl) rfl rfl

theorem arsh32X (dst src : Reg) : Statement (.arsh32X dst src) :=
  of_single (fun _ => rfl) rfl rfl

theorem arsh64K (dst : Reg) (imm : Imm) : Statement (.arsh64K dst imm) :=
  of_single (fun _ => rfl) rfl rfl

theorem arsh64X (dst src : Reg) : Statement (.arsh64X dst src) :=
  of_single (fun _ => rfl) rfl rfl

theorem le16 (dst : Reg) : Statement (.le16 dst) :=
  of_single (fun _ => rfl) rfl rfl

theorem le32 (dst : Reg) : Statement (.le32 dst) :=
  of_single (fun _ => rfl) rfl rfl

theorem le64 (dst : Reg) : Statement (.le64 dst) :=
  of_single (fun _ => rfl) rfl rfl

theorem be16 (dst : Reg) : Statement (.be16 dst) :=
  of_single (fun _ => rfl) rfl rfl

theorem be32 (dst : Reg) : Statement (.be32 dst) :=
  of_single (fun _ => rfl) rfl rfl

theorem be64 (dst : Reg) : Statement (.be64 dst) :=
  of_single (fun _ => rfl) rfl rfl

theorem ja (off : Off) : Statement (.ja off) :=
  of_single (fun _ => rfl) rfl rfl

theorem jeqK (dst : Reg) (imm : Imm) (off : Off) : Statement (.jeqK dst imm off) :=
  of_single (fun _ => rfl) rfl rfl

theorem jeqX (dst src : Reg) (off : Off) : Statement (.jeqX dst src off) :=
  of_single (fun _ => rfl) rfl rfl

theorem jeq32K (dst : Reg) (imm : Imm) (off : Off) : Statement (.jeq32K dst imm off) :=
  of_single (fun _ => rfl) rfl rfl

theorem jeq32X (dst src : Reg) (off : Off) : Statement (.jeq32X dst src off) :=
  of_single (fun _ => rfl) rfl rfl

theorem jgtK (dst : Reg) (imm : Imm) (off : Off) : Statement (.jgtK dst imm off) :=
  of_single (fun _ => rfl) rfl rfl

theorem jgtX (dst src : Reg) (off : Off) : Statement (.jgtX dst src off) :=
  of_single (fun _ => rfl) rfl rfl

theorem jgt32K (dst : Reg) (imm : Imm) (off : Off) : Statement (.jgt32K dst imm off) :=
  of_single (fun _ => rfl) rfl rfl

theorem jgt32X (dst src : Reg) (off : Off) : Statement (.jgt32X dst src off) :=
  of_single (fun _ => rfl) rfl rfl

theorem jgeK (dst : Reg) (imm : Imm) (off : Off) : Statement (.jgeK dst imm off) :=
  of_single (fun _ => rfl) rfl rfl

theorem jgeX (dst src : Reg) (off : Off) : Statement (.jgeX dst src off) :=
  of_single (fun _ => rfl) rfl rfl

theorem jge32K (dst : Reg) (imm : Imm) (off : Off) : Statement (.jge32K dst imm off) :=
  of_single (fun _ => rfl) rfl rfl

theorem jge32X (dst src : Reg) (off : Off) : Statement (.jge32X dst src off) :=
  of_single (fun _ => rfl) rfl rfl

theorem jsetK (dst : Reg) (imm : Imm) (off : Off) : Statement (.jsetK dst imm off) :=
  of_single (fun _ => rfl) rfl rfl

theorem jsetX (dst src : Reg) (off : Off) : Statement (.jsetX dst src off) :=
  of_single (fun _ => rfl) rfl rfl

theorem jset32K (dst : Reg) (imm : Imm) (off : Off) : Statement (.jset32K dst imm off) :=
  of_single (fun _ => rfl) rfl rfl

theorem jset32X (dst src : Reg) (off : Off) : Statement (.jset32X dst src off) :=
  of_single (fun _ => rfl) rfl rfl

theorem jneK (dst : Reg) (imm : Imm) (off : Off) : Statement (.jneK dst imm off) :=
  of_single (fun _ => rfl) rfl rfl

theorem jneX (dst src : Reg) (off : Off) : Statement (.jneX dst src off) :=
  of_single (fun _ => rfl) rfl rfl

theorem jne32K (dst : Reg) (imm : Imm) (off : Off) : Statement (.jne32K dst imm off) :=
  of_single (fun _ => rfl) rfl rfl

theorem jne32X (dst src : Reg) (off : Off) : Statement (.jne32X dst src off) :=
  of_single (fun _ => rfl) rfl rfl

theorem jsgtK (dst : Reg) (imm : Imm) (off : Off) : Statement (.jsgtK dst imm off) :=
  of_single (fun _ => rfl) rfl rfl

theorem jsgtX (dst src : Reg) (off : Off) : Statement (.jsgtX dst src off) :=
  of_single (fun _ => rfl) rfl rfl

theorem jsgt32K (dst : Reg) (imm : Imm) (off : Off) : Statement (.jsgt32K dst imm off) :=
  of_single (fun _ => rfl) rfl rfl

theorem jsgt32X (dst src : Reg) (off : Off) : Statement (.jsgt32X dst src off) :=
  of_single (fun _ => rfl) rfl rfl

theorem jsgeK (dst : Reg) (imm : Imm) (off : Off) : Statement (.jsgeK dst imm off) :=
  of_single (fun _ => rfl) rfl rfl

theorem jsgeX (dst src : Reg) (off : Off) : Statement (.jsgeX dst src off) :=
  of_single (fun _ => rfl) rfl rfl

theorem jsge32K (dst : Reg) (imm : Imm) (off : Off) : Statement (.jsge32K dst imm off) :=
  of_single (fun _ => rfl) rfl rfl

theorem jsge32X (dst src : Reg) (off : Off) : Statement (.jsge32X dst src off) :=
  of_single (fun _ => rfl) rfl rfl

theorem jltK (dst : Reg) (imm : Imm) (off : Off) : Statement (.jltK dst imm off) :=
  of_single (fun _ => rfl) rfl rfl

theorem jltX (dst src : Reg) (off : Off) : Statement (.jltX dst src off) :=
  of_single (fun _ => rfl) rfl rfl

theorem jlt32K (dst : Reg) (imm : Imm) (off : Off) : Statement (.jlt32K dst imm off) :=
  of_single (fun _ => rfl) rfl rfl

theorem jlt32X (dst src : Reg) (off : Off) : Statement (.jlt32X dst src off) :=
  of_single (fun _ => rfl) rfl rfl

theorem jleK (dst : Reg) (imm : Imm) (off : Off) : Statement (.jleK dst imm off) :=
  of_single (fun _ => rfl) rfl rfl

theorem jleX (dst src : Reg) (off : Off) : Statement (.jleX dst src off) :=
  of_single (fun _ => rfl) rfl rfl

theorem jle32K (dst : Reg) (imm : Imm) (off : Off) : Statement (.jle32K dst imm off) :=
  of_single (fun _ => rfl) rfl rfl

theorem jle32X (dst src : Reg) (off : Off) : Statement (.jle32X dst src off) :=
  of_single (fun _ => rfl) rfl rfl

theorem jsltK (dst : Reg) (imm : Imm) (off : Off) : Statement (.jsltK dst imm off) :=
  of_single (fun _ => rfl) rfl rfl

theorem jsltX (dst src : Reg) (off : Off) : Statement (.jsltX dst src off) :=
  of_single (fun _ => rfl) rfl rfl

theorem jslt32K (dst : Reg) (imm : Imm) (off : Off) : Statement (.jslt32K dst imm off) :=
  of_single (fun _ => rfl) rfl rfl

theorem jslt32X (dst src : Reg) (off : Off) : Statement (.jslt32X dst src off) :=
  of_single (fun _ => rfl) rfl rfl

theorem jsleK (dst : Reg) (imm : Imm) (off : Off) : Statement (.jsleK dst imm off) :=
  of_single (fun _ => rfl) rfl rfl

theorem jsleX (dst src : Reg) (off : Off) : Statement (.jsleX dst src off) :=
  of_single (fun _ => rfl) rfl rfl

theorem jsle32K (dst : Reg) (imm : Imm) (off : Off) : Statement (.jsle32K dst imm off) :=
  of_single (fun _ => rfl) rfl rfl

theorem jsle32X (dst src : Reg) (off : Off) : Statement (.jsle32X dst src off) :=
  of_single (fun _ => rfl) rfl rfl

theorem call (imm : Imm) : Statement (.call imm) :=
  of_single (fun _ => rfl) rfl rfl

theorem exit : Statement (.exit) :=
  of_single (fun _ => rfl) rfl rfl

theorem ldxw (dst src : Reg) (off : Off) : Statement (.ldxw dst src off) :=
  of_single (fun _ => rfl) rfl rfl

theorem ldxh (dst src : Reg) (off : Off) : Statement (.ldxh dst src off) :=
  of_single (fun _ => rfl) rfl rfl

theorem ldxb (dst src : Reg) (off : Off) : Statement (.ldxb dst src off) :=
  of_single (fun _ => rfl) rfl rfl

theorem ldxdw (dst src : Reg) (off : Off) : Statement (.ldxdw dst src off) :=
  of_single (fun _ => rfl) rfl rfl

theorem stw (dst : Reg) (off : Off) (imm : Imm) : Statement (.stw dst off imm) :=
  of_single (fun _ => rfl) rfl rfl

theorem sth (dst : Reg) (off : Off) (imm : Imm) : Statement (.sth dst off imm) :=
  of_single (fun _ => rfl) rfl rfl

theorem stb (dst : Reg) (off : Off) (imm : Imm) : Statement (.stb dst off imm) :=
  of_single (fun _ => rfl) rfl rfl

theorem stdw (dst : Reg) (off : Off) (imm : Imm) : Statement (.stdw dst off imm) :=
  of_single (fun _ => rfl) rfl rfl

theorem stxw (dst src : Reg) (off : Off) : Statement (.stxw dst src off) :=
  of_single (fun _ => rfl) rfl rfl

theorem stxh (dst src : Reg) (off : Off) : Statement (.stxh dst src off) :=
  of_single (fun _ => rfl) rfl rfl

theorem stxb (dst src : Reg) (off : Off) : Statement (.stxb dst src off) :=
  of_single (fun _ => rfl) rfl rfl

theorem stxdw (dst src : Reg) (off : Off) : Statement (.stxdw dst src off) :=
  of_single (fun _ => rfl) rfl rfl

theorem atomicAdd32 (dst src : Reg) (off : Off) : Statement (.atomicAdd32 dst src off) :=
  of_single (fun _ => rfl) rfl rfl

theorem atomicFetchAdd32 (dst src : Reg) (off : Off) : Statement (.atomicFetchAdd32 dst src off) :=
  of_single (fun _ => rfl) rfl rfl

theorem atomicOr32 (dst src : Reg) (off : Off) : Statement (.atomicOr32 dst src off) :=
  of_single (fun _ => rfl) rfl rfl

theorem atomicFetchOr32 (dst src : Reg) (off : Off) : Statement (.atomicFetchOr32 dst src off) :=
  of_single (fun _ => rfl) rfl rfl

theorem atomicAnd32 (dst src : Reg) (off : Off) : Statement (.atomicAnd32 dst src off) :=
  of_single (fun _ => rfl) rfl rfl

theorem atomicFetchAnd32 (dst src : Reg) (off : Off) : Statement (.atomicFetchAnd32 dst src off) :=
  of_single (fun _ => rfl) rfl rfl

theorem atomicXor32 (dst src : Reg) (off : Off) : Statement (.atomicXor32 dst src off) :=
  of_single (fun _ => rfl) rfl rfl

theorem atomicFetchXor32 (dst src : Reg) (off : Off) : Statement (.atomicFetchXor32 dst src off) :=
  of_single (fun _ => rfl) rfl rfl

theorem atomicXchg32 (dst src : Reg) (off : Off) : Statement (.atomicXchg32 dst src off) :=
  of_single (fun _ => rfl) rfl rfl

theorem atomicCmpxchg32 (dst src : Reg) (off : Off) : Statement (.atomicCmpxchg32 dst src off) :=
  of_single (fun _ => rfl) rfl rfl

theorem atomicAdd64 (dst src : Reg) (off : Off) : Statement (.atomicAdd64 dst src off) :=
  of_single (fun _ => rfl) rfl rfl

theorem atomicFetchAdd64 (dst src : Reg) (off : Off) : Statement (.atomicFetchAdd64 dst src off) :=
  of_single (fun _ => rfl) rfl rfl

theorem atomicOr64 (dst src : Reg) (off : Off) : Statement (.atomicOr64 dst src off) :=
  of_single (fun _ => rfl) rfl rfl

theorem atomicFetchOr64 (dst src : Reg) (off : Off) : Statement (.atomicFetchOr64 dst src off) :=
  of_single (fun _ => rfl) rfl rfl

theorem atomicAnd64 (dst src : Reg) (off : Off) : Statement (.atomicAnd64 dst src off) :=
  of_single (fun _ => rfl) rfl rfl

theorem atomicFetchAnd64 (dst src : Reg) (off : Off) : Statement (.atomicFetchAnd64 dst src off) :=
  of_single (fun _ => rfl) rfl rfl

theorem atomicXor64 (dst src : Reg) (off : Off) : Statement (.atomicXor64 dst src off) :=
  of_single (fun _ => rfl) rfl rfl

theorem atomicFetchXor64 (dst src : Reg) (off : Off) : Statement (.atomicFetchXor64 dst src off) :=
  of_single (fun _ => rfl) rfl rfl

theorem atomicXchg64 (dst src : Reg) (off : Off) : Statement (.atomicXchg64 dst src off) :=
  of_single (fun _ => rfl) rfl rfl

theorem atomicCmpxchg64 (dst src : Reg) (off : Off) : Statement (.atomicCmpxchg64 dst src off) :=
  of_single (fun _ => rfl) rfl rfl

theorem lddw (dst : Reg) (imm64 : Word) : Statement (.lddw dst imm64) := by
  intro p
  cases h : p.lddwLayout <;> refine ⟨_, _, by simp only [encode, h]; rfl, ?_, ?_⟩ <;> simp [isWide] <;> rfl

theorem ldabsw (imm : Imm) : Statement (.ldabsw imm) :=
  of_single (fun _ => rfl) rfl rfl

theorem ldabsh (imm : Imm) : Statement (.ldabsh imm) :=
  of_single (fun _ => rfl) rfl rfl

theorem ldabsb (imm : Imm) : Statement (.ldabsb imm) :=
  of_single (fun _ => rfl) rfl rfl

theorem ldindw (src : Reg) (imm : Imm) : Statement (.ldindw src imm) :=
  of_single (fun _ => rfl) rfl rfl

theorem ldindh (src : Reg) (imm : Imm) : Statement (.ldindh src imm) :=
  of_single (fun _ => rfl) rfl rfl

theorem ldindb (src : Reg) (imm : Imm) : Statement (.ldindb src imm) :=
  of_single (fun _ => rfl) rfl rfl

end Sys2Proof.Laws.EncodedShape
end

