-- ==== Sys2Proof/Tests/Slice0.lean ====
section
/-! SUPPORT. Tests: what well-formedness and the decoder refuse, the decoding of words written out from the encodings of
the spec, one step on the spec's own examples (the instruction files and `95_test_vectors.md`), and a witness for every
statement that has hypotheses. -/

namespace Sys2Proof.Tests

open Sys2Proof.Machine

/-! ### Helpers -/

/-- The reason for which the decoder refuses a slot. -/
def refusal (p : Params) (w : Word) (second : Option Word) : Option IllFormed :=
  match decode p w second with
  | .ok _ => none
  | .error r => some r

/-- The instruction that the decoder answers. -/
def decoded (p : Params) (w : Word) (second : Option Word) : Option Instr :=
  match decode p w second with
  | .ok i => some i
  | .error _ => none

/-- The registers before the others are given: all `novalue` but R10. -/
def bareRegs : Regs :=
  { r0 := none, r1 := none, r2 := none, r3 := none, r4 := none, r5 := none, r6 := none, r7 := none, r8 := none,
    r9 := none, r10 := some 0x1200 }

/-- The packet of `95_test_vectors.md`. -/
def framePacket : Packet :=
  { designator := 0x5000
    data := [0x00, 0x11, 0x22, 0x33, 0x44, 0x55, 0x66, 0x77, 0x88, 0x99, 0xaa, 0xbb, 0x08, 0x00, 0x45, 0x00, 0x00,
      0x54] }

/-- The called function 7 of `95_test_vectors.md`: the sum of R1 and R2. -/
def addHelper : Helper :=
  { number := 7, reads := [.r1, .r2], kind := .script (.ret (.binary .add (.value 0) (.value 1))) }

/-- A running machine with the conventions of `95_test_vectors.md`: the named registers and bytes hold values, all
others none. -/
def box (p : Params) (regs : List (Reg × Word)) (mem : Memory) (program : List Word) : State :=
  { regs := regs.foldl (fun g x => g.set x.1 (some x.2)) bareRegs
    pc := 0
    mem := mem
    outcome := .running
    program := program
    params := p
    regions := [stackRegion 0x1000 512]
    helpers := [addHelper]
    packet := some framePacket
    abortResult := none
    oracleTick := 0 }

/-- The state after one step, where there is one. -/
def stepped (s : State) : Option State :=
  match step s with
  | .next t => some t
  | .fault _ => none
  | .refused _ => none

/-- Memory with these bytes from an address on, and no others. -/
def bytesAt (a : Nat) (bs : List Byte) : Memory := (List.range bs.length).zipWith (fun i b => (a + i, b)) bs

/-- What a register holds after one step that ends in no fault. -/
def regAfter (s : State) (r : Reg) : Option Word :=
  match stepped s with
  | some t => if t.outcome = .running then t.regs.get r else none
  | none => none

/-- The outcome after one step. -/
def outcomeAfter (s : State) : Option RunOutcome := (stepped s).map (·.outcome)

/-- The bytes of memory after one step. -/
def memAfter (s : State) : Option Memory := (stepped s).map (·.mem)

/-- Where `pc` stands after one step. -/
def pcAfter (s : State) : Option Int := (stepped s).map (·.pc)

/-- What a register holds after one instruction on these registers, with the parameters at reset. -/
def result (regs : List (Reg × Word)) (w : Word) (r : Reg) : Option Word := regAfter (box defaultParams regs [] [w]) r

/-- One atomic instruction, on the bytes that the vectors store at `0x11f8`, leaves a register and memory so. -/
abbrev Atomically (regs : List (Reg × Word)) (w : Word) (r : Reg) (v : Word) (bs : List Byte) : Prop :=
  let s := box defaultParams regs (bytesAt 0x11f8 [0xf0, 0xff, 0xff, 0xff, 0x01, 0x00, 0x00, 0x00]) [w]
  regAfter s r = some v ∧ memAfter s = some (bytesAt 0x11f8 bs)

/-- Where `pc` stands after one instruction at slot 10. -/
def jumped (regs : List (Reg × Word)) (w : Word) : Option Int :=
  pcAfter { box defaultParams regs [] (List.replicate 10 0x95 ++ [w]) with pc := 10 }

/-! ### Decoding: words written out from the encodings of `30_encoding.md` -/

/-- Format `ALU_K`, class 4 (R71, R76, R86, R87). -/
theorem test_decode_alu_k_class4 :
    decodeTableWord 64 0x8000000700000004 = some (.add32K .r0 0x80000007) ∧
    decodeTableWord 64 0x8000000700000414 = some (.sub32K .r4 0x80000007) ∧
    decodeTableWord 64 0x8000000700000824 = some (.mul32K .r8 0x80000007) ∧
    decodeTableWord 64 0x8000000700000234 = some (.div32K .r2 0x80000007) ∧
    decodeTableWord 64 0x8000000700000644 = some (.or32K .r6 0x80000007) ∧
    decodeTableWord 64 0x8000000700000054 = some (.and32K .r0 0x80000007) ∧
    decodeTableWord 64 0x8000000700000464 = some (.lsh32K .r4 0x80000007) ∧
    decodeTableWord 64 0x8000000700000874 = some (.rsh32K .r8 0x80000007) ∧
    decodeTableWord 64 0x8000000700000284 = some (.neg32K .r2 0x80000007) ∧
    decodeTableWord 64 0x8000000700000694 = some (.mod32K .r6 0x80000007) ∧
    decodeTableWord 64 0x80000007000000a4 = some (.xor32K .r0 0x80000007) ∧
    decodeTableWord 64 0x80000007000004b4 = some (.mov32K .r4 0x80000007) ∧
    decodeTableWord 64 0x80000007000008c4 = some (.arsh32K .r8 0x80000007) := by decide

/-- Format `ALU_X`, class 4 (R71, R76, R86, R87). -/
theorem test_decode_alu_x_class4 :
    decodeTableWord 64 0x000000000000a10c = some (.add32X .r1 .r10) ∧
    decodeTableWord 64 0x000000000000551c = some (.sub32X .r5 .r5) ∧
    decodeTableWord 64 0x000000000000a92c = some (.mul32X .r9 .r10) ∧
    decodeTableWord 64 0x000000000000633c = some (.div32X .r3 .r6) ∧
    decodeTableWord 64 0x000000000000174c = some (.or32X .r7 .r1) ∧
    decodeTableWord 64 0x000000000000a15c = some (.and32X .r1 .r10) ∧
    decodeTableWord 64 0x000000000000256c = some (.lsh32X .r5 .r2) ∧
    decodeTableWord 64 0x000000000000897c = some (.rsh32X .r9 .r8) ∧
    decodeTableWord 64 0x000000000000a38c = some (.neg32X .r3 .r10) ∧
    decodeTableWord 64 0x000000000000979c = some (.mod32X .r7 .r9) ∧
    decodeTableWord 64 0x00000000000041ac = some (.xor32X .r1 .r4) ∧
    decodeTableWord 64 0x000000000000a5bc = some (.mov32X .r5 .r10) ∧
    decodeTableWord 64 0x00000000000059cc = some (.arsh32X .r9 .r5) := by decide

/-- Format `ALU_K`, class 7 (R71, R76, R86, R87). -/
theorem test_decode_alu_k_class7 :
    decodeTableWord 64 0xffffffff00000207 = some (.add64K .r2 0xffffffff) ∧
    decodeTableWord 64 0xffffffff00000617 = some (.sub64K .r6 0xffffffff) ∧
    decodeTableWord 64 0xffffffff00000027 = some (.mul64K .r0 0xffffffff) ∧
    decodeTableWord 64 0xffffffff00000437 = some (.div64K .r4 0xffffffff) ∧
    decodeTableWord 64 0xffffffff00000847 = some (.or64K .r8 0xffffffff) ∧
    decodeTableWord 64 0xffffffff00000257 = some (.and64K .r2 0xffffffff) ∧
    decodeTableWord 64 0xffffffff00000667 = some (.lsh64K .r6 0xffffffff) ∧
    decodeTableWord 64 0xffffffff00000077 = some (.rsh64K .r0 0xffffffff) ∧
    decodeTableWord 64 0xffffffff00000487 = some (.neg64K .r4 0xffffffff) ∧
    decodeTableWord 64 0xffffffff00000897 = some (.mod64K .r8 0xffffffff) ∧
    decodeTableWord 64 0xffffffff000002a7 = some (.xor64K .r2 0xffffffff) ∧
    decodeTableWord 64 0xffffffff000006b7 = some (.mov64K .r6 0xffffffff) ∧
    decodeTableWord 64 0xffffffff000000c7 = some (.arsh64K .r0 0xffffffff) := by decide

/-- Format `ALU_X`, class 7 (R71, R76, R86, R87). -/
theorem test_decode_alu_x_class7 :
    decodeTableWord 64 0x000000000000a30f = some (.add64X .r3 .r10) ∧
    decodeTableWord 64 0x000000000000871f = some (.sub64X .r7 .r8) ∧
    decodeTableWord 64 0x000000000000312f = some (.mul64X .r1 .r3) ∧
    decodeTableWord 64 0x000000000000a53f = some (.div64X .r5 .r10) ∧
    decodeTableWord 64 0x000000000000494f = some (.or64X .r9 .r4) ∧
    decodeTableWord 64 0x000000000000a35f = some (.and64X .r3 .r10) ∧
    decodeTableWord 64 0x000000000000a76f = some (.lsh64X .r7 .r10) ∧
    decodeTableWord 64 0x000000000000017f = some (.rsh64X .r1 .r0) ∧
    decodeTableWord 64 0x000000000000658f = some (.neg64X .r5 .r6) ∧
    decodeTableWord 64 0x000000000000a99f = some (.mod64X .r9 .r10) ∧
    decodeTableWord 64 0x00000000000073af = some (.xor64X .r3 .r7) ∧
    decodeTableWord 64 0x00000000000027bf = some (.mov64X .r7 .r2) ∧
    decodeTableWord 64 0x000000000000a1cf = some (.arsh64X .r1 .r10) := by decide

/-- Format `END`, class 4 (R71, R76, R86, R87). -/
theorem test_decode_end_class4 :
    decodeTableWord 64 0x00000010000002d4 = some (.le16 .r2) ∧
    decodeTableWord 64 0x00000020000003d4 = some (.le32 .r3) ∧
    decodeTableWord 64 0x00000040000004d4 = some (.le64 .r4) ∧
    decodeTableWord 64 0x00000010000005dc = some (.be16 .r5) ∧
    decodeTableWord 64 0x00000020000006dc = some (.be32 .r6) ∧
    decodeTableWord 64 0x00000040000007dc = some (.be64 .r7) := by decide

/-- Format `JA`, class 5 (R71, R76, R86, R87). -/
theorem test_decode_ja_class5 :
    decodeTableWord 64 0x0000000080000005 = some (.ja 0x8000) := by decide

/-- Format `JCC_K`, class 5 (R71, R76, R86, R87). -/
theorem test_decode_jcc_k_class5 :
    decodeTableWord 64 0x7ffffffe7fff0915 = some (.jeqK .r9 0x7ffffffe 0x7fff) ∧
    decodeTableWord 64 0x7ffffffe7fff0325 = some (.jgtK .r3 0x7ffffffe 0x7fff) ∧
    decodeTableWord 64 0x7ffffffe7fff0735 = some (.jgeK .r7 0x7ffffffe 0x7fff) ∧
    decodeTableWord 64 0x7ffffffe7fff0145 = some (.jsetK .r1 0x7ffffffe 0x7fff) ∧
    decodeTableWord 64 0x7ffffffe7fff0555 = some (.jneK .r5 0x7ffffffe 0x7fff) ∧
    decodeTableWord 64 0x7ffffffe7fff0965 = some (.jsgtK .r9 0x7ffffffe 0x7fff) ∧
    decodeTableWord 64 0x7ffffffe7fff0375 = some (.jsgeK .r3 0x7ffffffe 0x7fff) ∧
    decodeTableWord 64 0x7ffffffe7fff07a5 = some (.jltK .r7 0x7ffffffe 0x7fff) ∧
    decodeTableWord 64 0x7ffffffe7fff01b5 = some (.jleK .r1 0x7ffffffe 0x7fff) ∧
    decodeTableWord 64 0x7ffffffe7fff05c5 = some (.jsltK .r5 0x7ffffffe 0x7fff) ∧
    decodeTableWord 64 0x7ffffffe7fff09d5 = some (.jsleK .r9 0x7ffffffe 0x7fff) := by decide

/-- Format `JCC_X`, class 5 (R71, R76, R86, R87). -/
theorem test_decode_jcc_x_class5 :
    decodeTableWord 64 0x00000000fffca01d = some (.jeqX .r0 .r10 0xfffc) ∧
    decodeTableWord 64 0x00000000fffc042d = some (.jgtX .r4 .r0 0xfffc) ∧
    decodeTableWord 64 0x00000000fffc683d = some (.jgeX .r8 .r6 0xfffc) ∧
    decodeTableWord 64 0x00000000fffca24d = some (.jsetX .r2 .r10 0xfffc) ∧
    decodeTableWord 64 0x00000000fffc765d = some (.jneX .r6 .r7 0xfffc) ∧
    decodeTableWord 64 0x00000000fffc206d = some (.jsgtX .r0 .r2 0xfffc) ∧
    decodeTableWord 64 0x00000000fffca47d = some (.jsgeX .r4 .r10 0xfffc) ∧
    decodeTableWord 64 0x00000000fffc38ad = some (.jltX .r8 .r3 0xfffc) ∧
    decodeTableWord 64 0x00000000fffc92bd = some (.jleX .r2 .r9 0xfffc) ∧
    decodeTableWord 64 0x00000000fffca6cd = some (.jsltX .r6 .r10 0xfffc) ∧
    decodeTableWord 64 0x00000000fffca0dd = some (.jsleX .r0 .r10 0xfffc) := by decide

/-- Format `JCC_K`, class 6 (R71, R76, R86, R87). -/
theorem test_decode_jcc_k_class6 :
    decodeTableWord 64 0x1234567800100116 = some (.jeq32K .r1 0x12345678 0x0010) ∧
    decodeTableWord 64 0x1234567800100526 = some (.jgt32K .r5 0x12345678 0x0010) ∧
    decodeTableWord 64 0x1234567800100936 = some (.jge32K .r9 0x12345678 0x0010) ∧
    decodeTableWord 64 0x1234567800100346 = some (.jset32K .r3 0x12345678 0x0010) ∧
    decodeTableWord 64 0x1234567800100756 = some (.jne32K .r7 0x12345678 0x0010) ∧
    decodeTableWord 64 0x1234567800100166 = some (.jsgt32K .r1 0x12345678 0x0010) ∧
    decodeTableWord 64 0x1234567800100576 = some (.jsge32K .r5 0x12345678 0x0010) ∧
    decodeTableWord 64 0x12345678001009a6 = some (.jlt32K .r9 0x12345678 0x0010) ∧
    decodeTableWord 64 0x12345678001003b6 = some (.jle32K .r3 0x12345678 0x0010) ∧
    decodeTableWord 64 0x12345678001007c6 = some (.jslt32K .r7 0x12345678 0x0010) ∧
    decodeTableWord 64 0x12345678001001d6 = some (.jsle32K .r1 0x12345678 0x0010) := by decide

/-- Format `JCC_X`, class 6 (R71, R76, R86, R87). -/
theorem test_decode_jcc_x_class6 :
    decodeTableWord 64 0x000000008000821e = some (.jeq32X .r2 .r8 0x8000) ∧
    decodeTableWord 64 0x000000008000a62e = some (.jgt32X .r6 .r10 0x8000) ∧
    decodeTableWord 64 0x000000008000903e = some (.jge32X .r0 .r9 0x8000) ∧
    decodeTableWord 64 0x000000008000444e = some (.jset32X .r4 .r4 0x8000) ∧
    decodeTableWord 64 0x000000008000a85e = some (.jne32X .r8 .r10 0x8000) ∧
    decodeTableWord 64 0x000000008000526e = some (.jsgt32X .r2 .r5 0x8000) ∧
    decodeTableWord 64 0x000000008000067e = some (.jsge32X .r6 .r0 0x8000) ∧
    decodeTableWord 64 0x000000008000a0ae = some (.jlt32X .r0 .r10 0x8000) ∧
    decodeTableWord 64 0x00000000800014be = some (.jle32X .r4 .r1 0x8000) ∧
    decodeTableWord 64 0x00000000800078ce = some (.jslt32X .r8 .r7 0x8000) ∧
    decodeTableWord 64 0x000000008000a2de = some (.jsle32X .r2 .r10 0x8000) := by decide

/-- Format `CALL`, class 5 (R71, R76, R86, R87). -/
theorem test_decode_call_class5 :
    decodeTableWord 64 0x7ffffffe00000085 = some (.call 0x7ffffffe) := by decide

/-- Format `EXIT`, class 5 (R71, R76, R86, R87). -/
theorem test_decode_exit_class5 :
    decodeTableWord 64 0x0000000000000095 = some .exit := by decide

/-- Format `LDX`, class 1 (R71, R76, R86, R87). -/
theorem test_decode_ldx_class1 :
    decodeTableWord 64 0x000000000010a561 = some (.ldxw .r5 .r10 0x0010) ∧
    decodeTableWord 64 0x0000000080008669 = some (.ldxh .r6 .r8 0x8000) ∧
    decodeTableWord 64 0x000000007fff4771 = some (.ldxb .r7 .r4 0x7fff) ∧
    decodeTableWord 64 0x00000000fffca879 = some (.ldxdw .r8 .r10 0xfffc) := by decide

/-- Format `ST`, class 2 (R71, R76, R86, R87). -/
theorem test_decode_st_class2 :
    decodeTableWord 64 0x1234567800100962 = some (.stw .r9 0x0010 0x12345678) ∧
    decodeTableWord 64 0xffffffff8000006a = some (.sth .r0 0x8000 0xffffffff) ∧
    decodeTableWord 64 0x7ffffffe7fff0172 = some (.stb .r1 0x7fff 0x7ffffffe) ∧
    decodeTableWord 64 0x80000007fffc027a = some (.stdw .r2 0xfffc 0x80000007) := by decide

/-- Format `STX`, class 3 (R71, R76, R86, R87). -/
theorem test_decode_stx_class3 :
    decodeTableWord 64 0x0000000000102363 = some (.stxw .r3 .r2 0x0010) ∧
    decodeTableWord 64 0x000000008000a46b = some (.stxh .r4 .r10 0x8000) ∧
    decodeTableWord 64 0x000000007fff5573 = some (.stxb .r5 .r5 0x7fff) ∧
    decodeTableWord 64 0x00000000fffc167b = some (.stxdw .r6 .r1 0xfffc) := by decide

/-- Format `ATOMIC`, class 3 (R71, R76, R86, R87). -/
theorem test_decode_atomic_class3_1 :
    decodeTableWord 64 0x000000000010a7c3 = some (.atomicAdd32 .r7 .r10 0x0010) ∧
    decodeTableWord 64 0x00000001800098c3 = some (.atomicFetchAdd32 .r8 .r9 0x8000) ∧
    decodeTableWord 64 0x000000407fff09c3 = some (.atomicOr32 .r9 .r0 0x7fff) ∧
    decodeTableWord 64 0x00000041fffc30c3 = some (.atomicFetchOr32 .r0 .r3 0xfffc) ∧
    decodeTableWord 64 0x00000050001031c3 = some (.atomicAnd32 .r1 .r3 0x0010) ∧
    decodeTableWord 64 0x00000051800072c3 = some (.atomicFetchAnd32 .r2 .r7 0x8000) ∧
    decodeTableWord 64 0x000000a07fffa3c3 = some (.atomicXor32 .r3 .r10 0x7fff) ∧
    decodeTableWord 64 0x000000a1fffc14c3 = some (.atomicFetchXor32 .r4 .r1 0xfffc) ∧
    decodeTableWord 64 0x000000e1001085c3 = some (.atomicXchg32 .r5 .r8 0x0010) ∧
    decodeTableWord 64 0x000000f18000a6c3 = some (.atomicCmpxchg32 .r6 .r10 0x8000) ∧
    decodeTableWord 64 0x000000007fff17db = some (.atomicAdd64 .r7 .r1 0x7fff) ∧
    decodeTableWord 64 0x00000001fffc98db = some (.atomicFetchAdd64 .r8 .r9 0xfffc) ∧
    decodeTableWord 64 0x000000400010a9db = some (.atomicOr64 .r9 .r10 0x0010) := by decide

/-- Format `ATOMIC`, class 3 (R71, R76, R86, R87). -/
theorem test_decode_atomic_class3_2 :
    decodeTableWord 64 0x00000041800030db = some (.atomicFetchOr64 .r0 .r3 0x8000) ∧
    decodeTableWord 64 0x000000507fff71db = some (.atomicAnd64 .r1 .r7 0x7fff) ∧
    decodeTableWord 64 0x00000051fffc72db = some (.atomicFetchAnd64 .r2 .r7 0xfffc) ∧
    decodeTableWord 64 0x000000a00010a3db = some (.atomicXor64 .r3 .r10 0x0010) ∧
    decodeTableWord 64 0x000000a1800014db = some (.atomicFetchXor64 .r4 .r1 0x8000) ∧
    decodeTableWord 64 0x000000e17fff85db = some (.atomicXchg64 .r5 .r8 0x7fff) ∧
    decodeTableWord 64 0x000000f1fffc96db = some (.atomicCmpxchg64 .r6 .r9 0xfffc) := by decide

/-- Format `LDDW`, class 0 (R71, R76, R86, R87). -/
theorem test_decode_lddw_class0 :
    decodeTableWord 128 0x11223344556677880000000000000718 = some (.lddw .r7 0x1122334455667788) := by decide

/-- Format `LD_ABS`, class 0 (R71, R76, R86, R87). -/
theorem test_decode_ld_abs_class0 :
    decodeTableWord 64 0xffffffff00000020 = some (.ldabsw 0xffffffff) ∧
    decodeTableWord 64 0x7ffffffe00000028 = some (.ldabsh 0x7ffffffe) ∧
    decodeTableWord 64 0x8000000700000030 = some (.ldabsb 0x80000007) := by decide

/-- Format `LD_IND`, class 0 (R71, R76, R86, R87). -/
theorem test_decode_ld_ind_class0 :
    decodeTableWord 64 0x123456780000a040 = some (.ldindw .r10 0x12345678) ∧
    decodeTableWord 64 0xffffffff00007048 = some (.ldindh .r7 0xffffffff) ∧
    decodeTableWord 64 0x7ffffffe00003050 = some (.ldindb .r3 0x7ffffffe) := by decide

/-- V-ENC-01 to V-ENC-15 of `95_test_vectors.md`: decoded, or refused for this reason. -/
theorem test_v_enc_1 :
    refusal defaultParams 0x0000000500000107 none = none ∧
    refusal defaultParams 0x00000000fffc21ce none = none ∧
    refusal defaultParams 0x000000ffffff0a72 none = none ∧
    refusal defaultParams 0xfffffffe000003b7 none = none ∧
    refusal defaultParams 0x000000f1001076db none = none ∧
    refusal defaultParams 0x00000010000003dc none = none ∧
    refusal defaultParams 0x0000000c00002048 none = none ∧
    refusal defaultParams 0x0000000000000000 none = some .reservedOpcode ∧
    refusal defaultParams 0x0000000500002107 none = some .unusedFieldNotZero ∧
    refusal defaultParams 0x000000050000210f none = some .unusedFieldNotZero ∧
    refusal defaultParams 0x0000000500010107 none = some .unusedFieldNotZero ∧
    refusal defaultParams 0x0000000000002b0f none = some .badRegister ∧
    refusal defaultParams 0x0000000000001abf none = some .writeToR10 ∧
    refusal defaultParams 0x000000000000a1bf none = none ∧
    refusal defaultParams 0x00000008000001d4 none = some .badEndWidth := by decide

/-- V-ENC-16 to V-ENC-29. -/
theorem test_v_enc_2 :
    refusal defaultParams 0x00000010000001d7 none = some .reservedOpcode ∧
    refusal defaultParams 0x00000010fff81adb none = some .badAtomicOp ∧
    refusal defaultParams 0x000000010000a1db none = some .writeToR10 ∧
    refusal defaultParams 0x000000000000a1db none = none ∧
    refusal defaultParams 0x00000000000021cb none = some .reservedOpcode ∧
    refusal defaultParams 0x0000000300001085 none = some .unusedFieldNotZero ∧
    refusal defaultParams 0x0000000100000095 none = some .unusedFieldNotZero ∧
    refusal defaultParams 0x000000000000008d none = some .reservedOpcode ∧
    refusal defaultParams 0x0000000000000006 none = some .reservedOpcode ∧
    refusal defaultParams 0x0000000000000038 none = some .reservedOpcode ∧
    refusal defaultParams 0x0000000000000120 none = some .unusedFieldNotZero ∧
    refusal defaultParams 0x0000000700002161 none = some .unusedFieldNotZero ∧
    refusal defaultParams 0x0000000700002162 none = some .unusedFieldNotZero ∧
    refusal defaultParams 0x0000000000001118 none = some .unusedFieldNotZero := by decide

/-- The reasons of R91 that V-ENC does not show: a wide instruction cut short, a second slot with a low half that is
not zero, an atomic operation of `v3` under `v1`, and the forms of `BPF_NEG` that `twos_complement` does not have. -/
theorem test_other_reasons :
    refusal defaultParams 0x0000000000000118 none = some .truncatedWide ∧
    refusal { defaultParams with lddwLayout := .splitHalves } 0x0000000500000118 (some 0x0000000100000001) =
      some .badWideSecondSlot ∧
    refusal { defaultParams with isaVersion := .v1 } 0x00000001000021db none = some .versionNotAdmitted ∧
    refusal { defaultParams with isaVersion := .v1 } 0x00000000000021db none = none ∧
    refusal { defaultParams with negSemantics := .twosComplement } 0x000000000000218f none = some .negForm ∧
    refusal { defaultParams with negSemantics := .twosComplement } 0x0000000100000187 none = some .negForm ∧
    refusal { defaultParams with negSemantics := .twosComplement } 0x0000000000000187 none = none := by decide

/-! ### Well-formedness: an ill-formed term for each check -/

/-- Writes of R10 (R23): arithmetic, a byte swap, a load, a wide load, a fetching atomic operation. -/
theorem test_writeToR10 :
    (Instr.add64K .r10 1).illFormed? defaultParams = some .writeToR10 ∧
    (Instr.neg32X .r10 .r1).illFormed? defaultParams = some .writeToR10 ∧
    (Instr.be16 .r10).illFormed? defaultParams = some .writeToR10 ∧
    (Instr.ldxb .r10 .r1 0).illFormed? defaultParams = some .writeToR10 ∧
    (Instr.lddw .r10 1).illFormed? defaultParams = some .writeToR10 ∧
    (Instr.atomicXchg64 .r1 .r10 0).illFormed? defaultParams = some .writeToR10 ∧
    ¬ (Instr.mov64X .r10 .r1).WellFormed defaultParams ∧
    (Instr.atomicCmpxchg64 .r10 .r10 0).WellFormed defaultParams ∧
    (Instr.stxdw .r10 .r10 0).WellFormed defaultParams := by decide

/-- An operation of `v3` under `v1` (R271). -/
theorem test_versionNotAdmitted :
    (Instr.atomicOr32 .r1 .r2 0).illFormed? { defaultParams with isaVersion := .v1 } = some .versionNotAdmitted ∧
    ¬ (Instr.atomicCmpxchg64 .r1 .r2 0).WellFormed { defaultParams with isaVersion := .v1 } ∧
    (Instr.atomicAdd32 .r1 .r2 0).WellFormed { defaultParams with isaVersion := .v1 } := by decide

/-- The forms of `BPF_NEG` that `twos_complement` does not have (R117). -/
theorem test_negForm :
    (Instr.neg32X .r1 .r2).illFormed? { defaultParams with negSemantics := .twosComplement } = some .negForm ∧
    ¬ (Instr.neg64K .r1 1).WellFormed { defaultParams with negSemantics := .twosComplement } ∧
    (Instr.neg64K .r1 0).WellFormed { defaultParams with negSemantics := .twosComplement } := by decide

/-! ### One step: the examples of the instruction files -/

/-- `add`: the examples of R120, R121, R122, R123. -/
theorem test_add :
    result [(.r1, 0x1ffffffff)] 0x0000000100000104 .r1 = some 0x0000000000000000 ∧
    result [(.r1, 0xffffffffffffffff)] 0x0000000100000104 .r1 = some 0x0000000000000000 ∧
    result [(.r1, 0x1ffffffff), (.r2, 0x100000001)] 0x000000000000210c .r1 = some 0x0000000000000000 ∧
    result [(.r1, 0xffffffffffffffff), (.r2, 0x1)] 0x000000000000210c .r1 = some 0x0000000000000000 ∧
    result [(.r1, 0x1ffffffff)] 0x0000000100000107 .r1 = some 0x0000000200000000 ∧
    result [(.r1, 0xffffffffffffffff)] 0x0000000100000107 .r1 = some 0x0000000000000000 ∧
    result [(.r1, 0x1ffffffff), (.r2, 0x100000001)] 0x000000000000210f .r1 = some 0x0000000300000000 ∧
    result [(.r1, 0xffffffffffffffff), (.r2, 0x1)] 0x000000000000210f .r1 = some 0x0000000000000000 := by decide

/-- `sub`: the examples of R124, R125, R126, R127. -/
theorem test_sub :
    result [(.r1, 0x500000000)] 0x0000000100000114 .r1 = some 0x00000000ffffffff ∧
    result [(.r1, 0x0)] 0x0000000100000114 .r1 = some 0x00000000ffffffff ∧
    result [(.r1, 0x500000000), (.r2, 0x100000001)] 0x000000000000211c .r1 = some 0x00000000ffffffff ∧
    result [(.r1, 0x0), (.r2, 0x1)] 0x000000000000211c .r1 = some 0x00000000ffffffff ∧
    result [(.r1, 0x500000000)] 0x0000000100000117 .r1 = some 0x00000004ffffffff ∧
    result [(.r1, 0x0)] 0x0000000100000117 .r1 = some 0xffffffffffffffff ∧
    result [(.r1, 0x500000000), (.r2, 0x100000001)] 0x000000000000211f .r1 = some 0x00000003ffffffff ∧
    result [(.r1, 0x0), (.r2, 0x1)] 0x000000000000211f .r1 = some 0xffffffffffffffff := by decide

/-- `mul`: the examples of R128, R129, R130, R131. -/
theorem test_mul :
    result [(.r1, 0x180000001)] 0x0000000200000124 .r1 = some 0x0000000000000002 ∧
    result [(.r1, 0xffffffffffffffff)] 0xffffffff00000124 .r1 = some 0x0000000000000001 ∧
    result [(.r1, 0x180000001), (.r2, 0x100000003)] 0x000000000000212c .r1 = some 0x0000000080000003 ∧
    result [(.r1, 0xffffffffffffffff), (.r2, 0xffffffffffffffff)] 0x000000000000212c .r1 = some 0x0000000000000001 ∧
    result [(.r1, 0x180000001)] 0x0000000200000127 .r1 = some 0x0000000300000002 ∧
    result [(.r1, 0xffffffffffffffff)] 0xffffffff00000127 .r1 = some 0x0000000000000001 ∧
    result [(.r1, 0x180000001), (.r2, 0x100000003)] 0x000000000000212f .r1 = some 0x8000000580000003 ∧
    result [(.r1, 0xffffffffffffffff), (.r2, 0xffffffffffffffff)] 0x000000000000212f .r1 = some 0x0000000000000001 := by
  decide

/-- `div`: the examples of R132, R133, R134, R135. -/
theorem test_div :
    result [(.r1, 0xfffffffffffffff9)] 0x0000000200000134 .r1 = some 0x000000007ffffffc ∧
    result [(.r1, 0x7)] 0x0000000200000134 .r1 = some 0x0000000000000003 ∧
    result [(.r1, 0xfffffffffffffff9), (.r2, 0x100000002)] 0x000000000000213c .r1 = some 0x000000007ffffffc ∧
    result [(.r1, 0x7), (.r2, 0x2)] 0x000000000000213c .r1 = some 0x0000000000000003 ∧
    result [(.r1, 0xfffffffffffffff9)] 0x0000000200000137 .r1 = some 0x7ffffffffffffffc ∧
    result [(.r1, 0xfffffffffffffffe)] 0xffffffff00000137 .r1 = some 0x0000000000000000 ∧
    result [(.r1, 0xfffffffffffffff9), (.r2, 0x100000002)] 0x000000000000213f .r1 = some 0x00000000fffffffd ∧
    result [(.r1, 0x7), (.r2, 0x2)] 0x000000000000213f .r1 = some 0x0000000000000003 := by decide

/-- `or`: the examples of R136, R137, R138, R139. -/
theorem test_or :
    result [(.r1, 0x100000001)] 0x8000000000000144 .r1 = some 0x0000000080000001 ∧
    result [(.r1, 0x100000001), (.r2, 0x80000000)] 0x000000000000214c .r1 = some 0x0000000080000001 ∧
    result [(.r1, 0x100000001)] 0x8000000000000147 .r1 = some 0xffffffff80000001 ∧
    result [(.r1, 0x100000001), (.r2, 0x80000000)] 0x000000000000214f .r1 = some 0x0000000180000001 := by decide

/-- `and`: the examples of R140, R141, R142, R143. -/
theorem test_and :
    result [(.r1, 0x123456789abcdeff)] 0xfffffff000000154 .r1 = some 0x000000009abcdef0 ∧
    result [(.r1, 0x123456789abcdeff), (.r2, 0xfffffff0)] 0x000000000000215c .r1 = some 0x000000009abcdef0 ∧
    result [(.r1, 0x123456789abcdeff)] 0xfffffff000000157 .r1 = some 0x123456789abcdef0 ∧
    result [(.r1, 0x123456789abcdeff), (.r2, 0xfffffff0)] 0x000000000000215f .r1 = some 0x000000009abcdef0 := by decide

/-- `lsh`: the examples of R144, R145, R146, R147. -/
theorem test_lsh :
    result [(.r1, 0x180000001)] 0x0000000100000164 .r1 = some 0x0000000000000002 ∧
    result [(.r1, 0x8000000080000001)] 0x0000000000000164 .r1 = some 0x0000000080000001 ∧
    result [(.r1, 0x180000001), (.r2, 0x4)] 0x000000000000216c .r1 = some 0x0000000000000010 ∧
    result [(.r1, 0x8000000080000001), (.r2, 0x0)] 0x000000000000216c .r1 = some 0x0000000080000001 ∧
    result [(.r1, 0x180000001)] 0x0000000100000167 .r1 = some 0x0000000300000002 ∧
    result [(.r1, 0x8000000080000001)] 0x0000000000000167 .r1 = some 0x8000000080000001 ∧
    result [(.r1, 0x180000001), (.r2, 0x4)] 0x000000000000216f .r1 = some 0x0000001800000010 ∧
    result [(.r1, 0x8000000080000001), (.r2, 0x0)] 0x000000000000216f .r1 = some 0x8000000080000001 := by decide

/-- `rsh`: the examples of R148, R149, R150, R151. -/
theorem test_rsh :
    result [(.r1, 0x8000000080000000)] 0x0000000400000174 .r1 = some 0x0000000008000000 ∧
    result [(.r1, 0x8000000080000001)] 0x0000000000000174 .r1 = some 0x0000000080000001 ∧
    result [(.r1, 0x8000000080000000), (.r2, 0x4)] 0x000000000000217c .r1 = some 0x0000000008000000 ∧
    result [(.r1, 0x8000000080000001), (.r2, 0x0)] 0x000000000000217c .r1 = some 0x0000000080000001 ∧
    result [(.r1, 0x8000000080000000)] 0x0000000400000177 .r1 = some 0x0800000008000000 ∧
    result [(.r1, 0x8000000080000001)] 0x0000000000000177 .r1 = some 0x8000000080000001 ∧
    result [(.r1, 0x8000000080000000), (.r2, 0x4)] 0x000000000000217f .r1 = some 0x0800000008000000 ∧
    result [(.r1, 0x8000000080000001), (.r2, 0x0)] 0x000000000000217f .r1 = some 0x8000000080000001 := by decide

/-- `neg`: the examples of R152, R153, R154, R155. -/
theorem test_neg :
    result [(.r1, 0x1)] 0x0000000500000184 .r1 = some 0x00000000fffffffa ∧
    result [(.r1, 0x1), (.r2, 0xffffffff)] 0x000000000000218c .r1 = some 0x0000000000000000 ∧
    result [(.r1, 0x1)] 0x0000000500000187 .r1 = some 0xfffffffffffffffa ∧
    result [(.r1, 0x1), (.r2, 0xffffffff)] 0x000000000000218f .r1 = some 0xffffffff00000000 := by decide

/-- `mod`: the examples of R156, R157, R158, R159. -/
theorem test_mod :
    result [(.r1, 0xfffffffffffffff9)] 0x0000000a00000194 .r1 = some 0x0000000000000009 ∧
    result [(.r1, 0x7)] 0x0000000200000194 .r1 = some 0x0000000000000001 ∧
    result [(.r1, 0xfffffffffffffff9), (.r2, 0x100000007)] 0x000000000000219c .r1 = some 0x0000000000000004 ∧
    result [(.r1, 0x7), (.r2, 0x2)] 0x000000000000219c .r1 = some 0x0000000000000001 ∧
    result [(.r1, 0xfffffffffffffff9)] 0x0000000a00000197 .r1 = some 0x0000000000000009 ∧
    result [(.r1, 0xfffffffffffffffe)] 0xffffffff00000197 .r1 = some 0xfffffffffffffffe ∧
    result [(.r1, 0xfffffffffffffff9), (.r2, 0x100000007)] 0x000000000000219f .r1 = some 0x000000000000002a ∧
    result [(.r1, 0x7), (.r2, 0x2)] 0x000000000000219f .r1 = some 0x0000000000000001 := by decide

/-- `xor`: the examples of R160, R161, R162, R163. -/
theorem test_xor :
    result [(.r1, 0xffffffffffffffff)] 0x0f0f0f0f000001a4 .r1 = some 0x00000000f0f0f0f0 ∧
    result [(.r1, 0xffffffffffffffff), (.r2, 0xf0f0f0f0f0f0f0f)] 0x00000000000021ac .r1 = some 0x00000000f0f0f0f0 ∧
    result [(.r3, 0x1234567800000005)] 0x00000000000033ac .r3 = some 0x0000000000000000 ∧
    result [(.r1, 0xffffffffffffffff)] 0x0f0f0f0f000001a7 .r1 = some 0xfffffffff0f0f0f0 ∧
    result [(.r1, 0xffffffffffffffff), (.r2, 0xf0f0f0f0f0f0f0f)] 0x00000000000021af .r1 = some 0xf0f0f0f0f0f0f0f0 ∧
    result [(.r3, 0x1234567800000005)] 0x00000000000033af .r3 = some 0x0000000000000000 := by decide

/-- `mov`: the examples of R164, R165, R166, R167. -/
theorem test_mov :
    result [(.r1, 0xdeadbeefdeadbeef)] 0xffffffff000001b4 .r1 = some 0x00000000ffffffff ∧
    result [(.r1, 0xdeadbeefdeadbeef), (.r2, 0x1122334455667788)] 0x00000000000021bc .r1 = some 0x0000000055667788 ∧
    result [(.r3, 0x1122334455667788)] 0x00000000000033bc .r3 = some 0x0000000055667788 ∧
    result [(.r1, 0xdeadbeefdeadbeef)] 0xffffffff000001b7 .r1 = some 0xffffffffffffffff ∧
    result [(.r1, 0xdeadbeefdeadbeef), (.r2, 0x1122334455667788)] 0x00000000000021bf .r1 = some 0x1122334455667788 := by
  decide

/-- `arsh`: the examples of R168, R169, R170, R171. -/
theorem test_arsh :
    result [(.r1, 0x8000000080000000)] 0x00000004000001c4 .r1 = some 0x00000000f8000000 ∧
    result [(.r1, 0x8000000080000001)] 0x00000000000001c4 .r1 = some 0x0000000080000001 ∧
    result [(.r1, 0x8000000080000000), (.r2, 0x4)] 0x00000000000021cc .r1 = some 0x00000000f8000000 ∧
    result [(.r1, 0x8000000080000001), (.r2, 0x0)] 0x00000000000021cc .r1 = some 0x0000000080000001 ∧
    result [(.r1, 0x8000000080000000)] 0x00000004000001c7 .r1 = some 0xf800000008000000 ∧
    result [(.r1, 0x8000000080000001)] 0x00000000000001c7 .r1 = some 0x8000000080000001 ∧
    result [(.r1, 0x8000000080000000), (.r2, 0x4)] 0x00000000000021cf .r1 = some 0xf800000008000000 ∧
    result [(.r1, 0x8000000080000001), (.r2, 0x0)] 0x00000000000021cf .r1 = some 0x8000000080000001 := by decide

/-- `jeq`, taken and not taken: the examples of R200, R201, R202, R203. -/
theorem test_jeq :
    jumped [(.r1, 0x5)] 0x0000000500030115 = some 14 ∧
    jumped [(.r1, 0x100000005)] 0x0000000500030115 = some 11 ∧
    jumped [(.r1, 0x5), (.r2, 0x5)] 0x000000000003211d = some 14 ∧
    jumped [(.r1, 0x100000005), (.r2, 0x5)] 0x000000000003211d = some 11 ∧
    jumped [(.r1, 0x100000005)] 0x0000000500030116 = some 14 ∧
    jumped [(.r1, 0x500000006)] 0x0000000500030116 = some 11 ∧
    jumped [(.r1, 0x100000005), (.r2, 0xabcd000000000005)] 0x000000000003211e = some 14 ∧
    jumped [(.r1, 0x500000006), (.r2, 0xabcd000000000005)] 0x000000000003211e = some 11 := by decide

/-- `jgt`, taken and not taken: the examples of R204, R205, R206, R207. -/
theorem test_jgt :
    jumped [(.r1, 0xffffffffffffffff)] 0x0000000100030125 = some 14 ∧
    jumped [(.r1, 0x1)] 0x0000000100030125 = some 11 ∧
    jumped [(.r1, 0xffffffffffffffff), (.r2, 0x1)] 0x000000000003212d = some 14 ∧
    jumped [(.r1, 0x1), (.r2, 0x1)] 0x000000000003212d = some 11 ∧
    jumped [(.r1, 0xffffffff)] 0x0000000100030126 = some 14 ∧
    jumped [(.r1, 0xffffffff00000001)] 0x0000000100030126 = some 11 ∧
    jumped [(.r1, 0xffffffff), (.r2, 0xabcd000000000001)] 0x000000000003212e = some 14 ∧
    jumped [(.r1, 0xffffffff00000001), (.r2, 0xabcd000000000001)] 0x000000000003212e = some 11 := by decide

/-- `jge`, taken and not taken: the examples of R208, R209, R210, R211. -/
theorem test_jge :
    jumped [(.r1, 0x1)] 0x0000000100030135 = some 14 ∧
    jumped [(.r1, 0x0)] 0x0000000100030135 = some 11 ∧
    jumped [(.r1, 0x1), (.r2, 0x1)] 0x000000000003213d = some 14 ∧
    jumped [(.r1, 0x0), (.r2, 0x1)] 0x000000000003213d = some 11 ∧
    jumped [(.r1, 0xffffffff00000001)] 0x0000000100030136 = some 14 ∧
    jumped [(.r1, 0xffffffff00000000)] 0x0000000100030136 = some 11 ∧
    jumped [(.r1, 0xffffffff00000001), (.r2, 0xabcd000000000001)] 0x000000000003213e = some 14 ∧
    jumped [(.r1, 0xffffffff00000000), (.r2, 0xabcd000000000001)] 0x000000000003213e = some 11 := by decide

/-- `jset`, taken and not taken: the examples of R212, R213, R214, R215. -/
theorem test_jset :
    jumped [(.r1, 0x6)] 0x0000000200030145 = some 14 ∧
    jumped [(.r1, 0x4)] 0x0000000300030145 = some 11 ∧
    jumped [(.r1, 0x6), (.r2, 0x2)] 0x000000000003214d = some 14 ∧
    jumped [(.r1, 0x4), (.r2, 0x3)] 0x000000000003214d = some 11 ∧
    jumped [(.r1, 0x100000006)] 0x0000000200030146 = some 14 ∧
    jumped [(.r1, 0xf00000004)] 0x0000000300030146 = some 11 ∧
    jumped [(.r1, 0x100000006), (.r2, 0xabcd000000000002)] 0x000000000003214e = some 14 ∧
    jumped [(.r1, 0xf00000004), (.r2, 0xabcd000000000003)] 0x000000000003214e = some 11 := by decide

/-- `jne`, taken and not taken: the examples of R216, R217, R218, R219. -/
theorem test_jne :
    jumped [(.r1, 0x100000005)] 0x0000000500030155 = some 14 ∧
    jumped [(.r1, 0x5)] 0x0000000500030155 = some 11 ∧
    jumped [(.r1, 0x100000005), (.r2, 0x5)] 0x000000000003215d = some 14 ∧
    jumped [(.r1, 0x5), (.r2, 0x5)] 0x000000000003215d = some 11 ∧
    jumped [(.r1, 0x6)] 0x0000000500030156 = some 14 ∧
    jumped [(.r1, 0x100000005)] 0x0000000500030156 = some 11 ∧
    jumped [(.r1, 0x6), (.r2, 0xabcd000000000005)] 0x000000000003215e = some 14 ∧
    jumped [(.r1, 0x100000005), (.r2, 0xabcd000000000005)] 0x000000000003215e = some 11 := by decide

/-- `jsgt`, taken and not taken: the examples of R220, R221, R222, R223. -/
theorem test_jsgt :
    jumped [(.r1, 0x1)] 0xffffffff00030165 = some 14 ∧
    jumped [(.r1, 0xffffffffffffffff)] 0x0000000100030165 = some 11 ∧
    jumped [(.r1, 0x1), (.r2, 0xffffffffffffffff)] 0x000000000003216d = some 14 ∧
    jumped [(.r1, 0xffffffffffffffff), (.r2, 0x1)] 0x000000000003216d = some 11 ∧
    jumped [(.r1, 0x1)] 0xffffffff00030166 = some 14 ∧
    jumped [(.r1, 0xffffffff)] 0x0000000100030166 = some 11 ∧
    jumped [(.r1, 0x1), (.r2, 0xffffffff)] 0x000000000003216e = some 14 ∧
    jumped [(.r1, 0xffffffff), (.r2, 0xabcd000000000001)] 0x000000000003216e = some 11 := by decide

/-- `jsge`, taken and not taken: the examples of R224, R225, R226, R227. -/
theorem test_jsge :
    jumped [(.r1, 0xffffffffffffffff)] 0xffffffff00030175 = some 14 ∧
    jumped [(.r1, 0x8000000000000000)] 0x0000000000030175 = some 11 ∧
    jumped [(.r1, 0xffffffffffffffff), (.r2, 0xffffffffffffffff)] 0x000000000003217d = some 14 ∧
    jumped [(.r1, 0x8000000000000000), (.r2, 0x0)] 0x000000000003217d = some 11 ∧
    jumped [(.r1, 0xffffffff)] 0xffffffff00030176 = some 14 ∧
    jumped [(.r1, 0x80000000)] 0x0000000000030176 = some 11 ∧
    jumped [(.r1, 0xffffffff), (.r2, 0xffffffff)] 0x000000000003217e = some 14 ∧
    jumped [(.r1, 0x80000000), (.r2, 0xabcd000000000000)] 0x000000000003217e = some 11 := by decide

/-- `jlt`, taken and not taken: the examples of R228, R229, R230, R231. -/
theorem test_jlt :
    jumped [(.r1, 0x1)] 0xffffffff000301a5 = some 14 ∧
    jumped [(.r1, 0x1)] 0x00000001000301a5 = some 11 ∧
    jumped [(.r1, 0x1), (.r2, 0xffffffffffffffff)] 0x00000000000321ad = some 14 ∧
    jumped [(.r1, 0x1), (.r2, 0x1)] 0x00000000000321ad = some 11 ∧
    jumped [(.r1, 0x1)] 0xffffffff000301a6 = some 14 ∧
    jumped [(.r1, 0xffffffff00000001)] 0x00000001000301a6 = some 11 ∧
    jumped [(.r1, 0x1), (.r2, 0xffffffff)] 0x00000000000321ae = some 14 ∧
    jumped [(.r1, 0xffffffff00000001), (.r2, 0xabcd000000000001)] 0x00000000000321ae = some 11 := by decide

/-- `jle`, taken and not taken: the examples of R232, R233, R234, R235. -/
theorem test_jle :
    jumped [(.r1, 0x1)] 0x00000001000301b5 = some 14 ∧
    jumped [(.r1, 0x2)] 0x00000001000301b5 = some 11 ∧
    jumped [(.r1, 0x1), (.r2, 0x1)] 0x00000000000321bd = some 14 ∧
    jumped [(.r1, 0x2), (.r2, 0x1)] 0x00000000000321bd = some 11 ∧
    jumped [(.r1, 0xffffffff00000001)] 0x00000001000301b6 = some 14 ∧
    jumped [(.r1, 0x2)] 0x00000001000301b6 = some 11 ∧
    jumped [(.r1, 0xffffffff00000001), (.r2, 0xabcd000000000001)] 0x00000000000321be = some 14 ∧
    jumped [(.r1, 0x2), (.r2, 0xabcd000000000001)] 0x00000000000321be = some 11 := by decide

/-- `jslt`, taken and not taken: the examples of R236, R237, R238, R239. -/
theorem test_jslt :
    jumped [(.r1, 0xffffffffffffffff)] 0x00000001000301c5 = some 14 ∧
    jumped [(.r1, 0x1)] 0xffffffff000301c5 = some 11 ∧
    jumped [(.r1, 0xffffffffffffffff), (.r2, 0x1)] 0x00000000000321cd = some 14 ∧
    jumped [(.r1, 0x1), (.r2, 0xffffffffffffffff)] 0x00000000000321cd = some 11 ∧
    jumped [(.r1, 0xffffffff)] 0x00000001000301c6 = some 14 ∧
    jumped [(.r1, 0x1)] 0xffffffff000301c6 = some 11 ∧
    jumped [(.r1, 0xffffffff), (.r2, 0xabcd000000000001)] 0x00000000000321ce = some 14 ∧
    jumped [(.r1, 0x1), (.r2, 0xffffffff)] 0x00000000000321ce = some 11 := by decide

/-- `jsle`, taken and not taken: the examples of R240, R241, R242, R243. -/
theorem test_jsle :
    jumped [(.r1, 0xffffffffffffffff)] 0xffffffff000301d5 = some 14 ∧
    jumped [(.r1, 0x0)] 0xffffffff000301d5 = some 11 ∧
    jumped [(.r1, 0xffffffffffffffff), (.r2, 0xffffffffffffffff)] 0x00000000000321dd = some 14 ∧
    jumped [(.r1, 0x0), (.r2, 0xffffffffffffffff)] 0x00000000000321dd = some 11 ∧
    jumped [(.r1, 0xffffffff)] 0xffffffff000301d6 = some 14 ∧
    jumped [(.r1, 0x0)] 0xffffffff000301d6 = some 11 ∧
    jumped [(.r1, 0xffffffff), (.r2, 0xffffffff)] 0x00000000000321de = some 14 ∧
    jumped [(.r1, 0x0), (.r2, 0xffffffff)] 0x00000000000321de = some 11 := by decide

/-! ### One step: vectors of `95_test_vectors.md` -/

/-- V-END-01, V-END-02, V-END-03, V-END-04, V-END-05, V-END-06. -/
theorem test_byteswap_1 :
    regAfter (box defaultParams [(.r1, 0x1122334455667788)] [] [0x00000010000001d4]) .r1 = some 0x7788 ∧
    regAfter (box { defaultParams with hostEndian := .big } [(.r1, 0x1122334455667788)] [] [0x00000010000001d4]) .r1
      = some 0x8877 ∧
    regAfter (box defaultParams [(.r1, 0x1122334455667788)] [] [0x00000020000001d4]) .r1 = some 0x55667788 ∧
    regAfter (box { defaultParams with hostEndian := .big } [(.r1, 0x1122334455667788)] [] [0x00000020000001d4]) .r1
      = some 0x88776655 ∧
    regAfter (box defaultParams [(.r1, 0x1122334455667788)] [] [0x00000040000001d4]) .r1 = some 0x1122334455667788 ∧
    regAfter (box { defaultParams with hostEndian := .big } [(.r1, 0x1122334455667788)] [] [0x00000040000001d4]) .r1
      = some 0x8877665544332211 := by decide

/-- V-END-07, V-END-08, V-END-09, V-END-10, V-END-11, V-END-15. -/
theorem test_byteswap_2 :
    regAfter (box defaultParams [(.r1, 0x1122334455667788)] [] [0x00000010000001dc]) .r1 = some 0x8877 ∧
    regAfter (box { defaultParams with hostEndian := .big } [(.r1, 0x1122334455667788)] [] [0x00000010000001dc]) .r1
      = some 0x7788 ∧
    regAfter (box defaultParams [(.r1, 0x1122334455667788)] [] [0x00000020000001dc]) .r1 = some 0x88776655 ∧
    regAfter (box { defaultParams with hostEndian := .big } [(.r1, 0x1122334455667788)] [] [0x00000020000001dc]) .r1
      = some 0x55667788 ∧
    regAfter (box defaultParams [(.r1, 0x1122334455667788)] [] [0x00000040000001dc]) .r1 = some 0x8877665544332211 ∧
    outcomeAfter (box defaultParams [] [] [0x00000040000001dc]) = some (.fault (.uninitRegister .r1)) := by decide

/-- V-MEM-03, V-MEM-32, V-MEM-07, V-MEM-08, V-MEM-11, V-MEM-30. -/
theorem test_loads_1 :
    regAfter (box defaultParams [] (bytesAt 0x11f8 [0x88, 0x77, 0x66, 0x55, 0x44, 0x33, 0x22, 0x11])
      [0x00000000fff8a161]) .r1 = some 0x55667788 ∧
    outcomeAfter (box defaultParams [] (bytesAt 0x11fe [0x01, 0x02]) [0x00000000fffea161]) = some (.fault (.memFault
      0x11fe 4 .read)) ∧
    regAfter (box defaultParams [] (bytesAt 0x11f8 [0x88, 0x77, 0x66, 0x55, 0x44, 0x33, 0x22, 0x11])
      [0x00000000fff8a169]) .r1 = some 0x7788 ∧
    regAfter (box { defaultParams with hostEndian := .big } [] (bytesAt 0x11f8 [0x88, 0x77, 0x66, 0x55, 0x44, 0x33,
      0x22, 0x11]) [0x00000000fff8a169]) .r1 = some 0x8877 ∧
    regAfter (box defaultParams [] (bytesAt 0x11f8 [0x88, 0x77, 0x66, 0x55, 0x44, 0x33, 0x22, 0x11])
      [0x00000000fff8a171]) .r1 = some 0x88 ∧
    outcomeAfter (box defaultParams [] [] [0x00000000fdffa171]) = some (.fault (.memFault 0xfff 1 .read)) := by decide

/-- V-MEM-01, V-MEM-29. -/
theorem test_loads_2 :
    regAfter (box defaultParams [] (bytesAt 0x11f8 [0x88, 0x77, 0x66, 0x55, 0x44, 0x33, 0x22, 0x11])
      [0x00000000fff8a179]) .r1 = some 0x1122334455667788 ∧
    outcomeAfter (box defaultParams [] [] [0x000000000000a179]) = some (.fault (.memFault 0x1200 8 .read)) := by decide

/-- V-MEM-25, V-MEM-26, V-MEM-27, V-MEM-24. -/
theorem test_stores_imm :
    memAfter (box defaultParams [] [] [0xfffffffefff80a62]) = some (bytesAt 0x11f8 [0xfe, 0xff, 0xff, 0xff]) ∧
    memAfter (box defaultParams [] [] [0x00012345fff80a6a]) = some (bytesAt 0x11f8 [0x45, 0x23]) ∧
    memAfter (box defaultParams [] [] [0x000001fffff80a72]) = some (bytesAt 0x11f8 [0xff]) ∧
    memAfter (box defaultParams [] [] [0xfffffffefff80a7a]) = some (bytesAt 0x11f8 [0xfe, 0xff, 0xff, 0xff, 0xff,
      0xff, 0xff, 0xff]) := by decide

/-- V-MEM-20, V-MEM-43, V-MEM-22, V-MEM-36, V-MEM-23, V-MEM-41. -/
theorem test_stores_reg_1 :
    memAfter (box defaultParams [(.r1, 0x1122334455667788)] [] [0x00000000fff81a63]) = some (bytesAt 0x11f8 [0x88,
      0x77, 0x66, 0x55]) ∧
    outcomeAfter (box defaultParams [(.r2, 0x1)] [] [0x0000000000002163]) = some (.fault (.uninitRegister .r1)) ∧
    memAfter (box defaultParams [(.r1, 0x1122334455667788)] [] [0x00000000fff81a6b]) = some (bytesAt 0x11f8 [0x88,
      0x77]) ∧
    outcomeAfter (box defaultParams [(.r1, 0xabcd)] [] [0x00000000fff91a6b]) = some (.fault (.misaligned 0x11f9 2)) ∧
    memAfter (box defaultParams [(.r1, 0x1122334455667788)] [] [0x00000000fff81a73]) = some (bytesAt 0x11f8 [0x88]) ∧
    outcomeAfter (box defaultParams [(.r1, 0x8000), (.r2, 0x1)] [] [0x0000000000002173]) = some (.fault (.memFault
      0x8000 1 .write)) := by decide

/-- V-MEM-18, V-MEM-19. -/
theorem test_stores_reg_2 :
    memAfter (box defaultParams [(.r1, 0x1122334455667788)] [] [0x00000000fff81a7b]) = some (bytesAt 0x11f8 [0x88,
      0x77, 0x66, 0x55, 0x44, 0x33, 0x22, 0x11]) ∧
    memAfter (box { defaultParams with hostEndian := .big } [(.r1, 0x1122334455667788)] [] [0x00000000fff81a7b]) =
      some (bytesAt 0x11f8 [0x11, 0x22, 0x33, 0x44, 0x55, 0x66, 0x77, 0x88]) := by decide

/-- V-ATOMIC-01, V-ATOMIC-23, V-ATOMIC-02, V-ATOMIC-03, V-ATOMIC-04, V-ATOMIC-05. -/
theorem test_atomic32_1 :
    Atomically [(.r2, 0xa00000021)] 0x00000000fff82ac3 .r2 0xa00000021 [0x11, 0x00, 0x00, 0x00, 0x01, 0x00, 0x00,
      0x00] ∧
    Atomically [(.r2, 0xa00000021)] 0x00000000fffc2ac3 .r2 0xa00000021 [0xf0, 0xff, 0xff, 0xff, 0x22, 0x00, 0x00,
      0x00] ∧
    Atomically [(.r2, 0xa00000021)] 0x00000001fff82ac3 .r2 0xfffffff0 [0x11, 0x00, 0x00, 0x00, 0x01, 0x00, 0x00,
      0x00] ∧
    Atomically [(.r2, 0xa00000021)] 0x00000040fff82ac3 .r2 0xa00000021 [0xf1, 0xff, 0xff, 0xff, 0x01, 0x00, 0x00,
      0x00] ∧
    Atomically [(.r2, 0xa00000021)] 0x00000041fff82ac3 .r2 0xfffffff0 [0xf1, 0xff, 0xff, 0xff, 0x01, 0x00, 0x00,
      0x00] ∧
    Atomically [(.r2, 0xa00000021)] 0x00000050fff82ac3 .r2 0xa00000021 [0x20, 0x00, 0x00, 0x00, 0x01, 0x00, 0x00,
      0x00] := by decide

/-- V-ATOMIC-06, V-ATOMIC-07, V-ATOMIC-08, V-ATOMIC-09, V-ATOMIC-10, V-ATOMIC-22. -/
theorem test_atomic32_2 :
    Atomically [(.r2, 0xa00000021)] 0x00000051fff82ac3 .r2 0xfffffff0 [0x20, 0x00, 0x00, 0x00, 0x01, 0x00, 0x00,
      0x00] ∧
    Atomically [(.r2, 0xa00000021)] 0x000000a0fff82ac3 .r2 0xa00000021 [0xd1, 0xff, 0xff, 0xff, 0x01, 0x00, 0x00,
      0x00] ∧
    Atomically [(.r2, 0xa00000021)] 0x000000a1fff82ac3 .r2 0xfffffff0 [0xd1, 0xff, 0xff, 0xff, 0x01, 0x00, 0x00,
      0x00] ∧
    Atomically [(.r2, 0xa00000021)] 0x000000e1fff82ac3 .r2 0xfffffff0 [0x21, 0x00, 0x00, 0x00, 0x01, 0x00, 0x00,
      0x00] ∧
    Atomically [(.r0, 0xdead0000fffffff0), (.r2, 0xa00000021)] 0x000000f1fff82ac3 .r0 0xfffffff0 [0x21, 0x00, 0x00,
      0x00, 0x01, 0x00, 0x00, 0x00] ∧
    Atomically [(.r0, 0x7), (.r2, 0xa00000021)] 0x000000f1fff82ac3 .r0 0xfffffff0 [0xf0, 0xff, 0xff, 0xff, 0x01,
      0x00, 0x00, 0x00] := by decide

/-- V-ATOMIC-11, V-ATOMIC-12, V-ATOMIC-13, V-ATOMIC-14, V-ATOMIC-15, V-ATOMIC-16. -/
theorem test_atomic64_1 :
    Atomically [(.r2, 0xa00000021)] 0x00000000fff82adb .r2 0xa00000021 [0x11, 0x00, 0x00, 0x00, 0x0c, 0x00, 0x00,
      0x00] ∧
    Atomically [(.r2, 0xa00000021)] 0x00000001fff82adb .r2 0x1fffffff0 [0x11, 0x00, 0x00, 0x00, 0x0c, 0x00, 0x00,
      0x00] ∧
    Atomically [(.r2, 0xa00000021)] 0x00000040fff82adb .r2 0xa00000021 [0xf1, 0xff, 0xff, 0xff, 0x0b, 0x00, 0x00,
      0x00] ∧
    Atomically [(.r2, 0xa00000021)] 0x00000041fff82adb .r2 0x1fffffff0 [0xf1, 0xff, 0xff, 0xff, 0x0b, 0x00, 0x00,
      0x00] ∧
    Atomically [(.r2, 0xa00000021)] 0x00000050fff82adb .r2 0xa00000021 [0x20, 0x00, 0x00, 0x00, 0x00, 0x00, 0x00,
      0x00] ∧
    Atomically [(.r2, 0xa00000021)] 0x00000051fff82adb .r2 0x1fffffff0 [0x20, 0x00, 0x00, 0x00, 0x00, 0x00, 0x00,
      0x00] := by decide

/-- V-ATOMIC-17, V-ATOMIC-18, V-ATOMIC-19, V-ATOMIC-20, V-ATOMIC-21. -/
theorem test_atomic64_2 :
    Atomically [(.r2, 0xa00000021)] 0x000000a0fff82adb .r2 0xa00000021 [0xd1, 0xff, 0xff, 0xff, 0x0b, 0x00, 0x00,
      0x00] ∧
    Atomically [(.r2, 0xa00000021)] 0x000000a1fff82adb .r2 0x1fffffff0 [0xd1, 0xff, 0xff, 0xff, 0x0b, 0x00, 0x00,
      0x00] ∧
    Atomically [(.r2, 0xa00000021)] 0x000000e1fff82adb .r2 0x1fffffff0 [0x21, 0x00, 0x00, 0x00, 0x0a, 0x00, 0x00,
      0x00] ∧
    Atomically [(.r0, 0x1fffffff0), (.r2, 0xa00000021)] 0x000000f1fff82adb .r2 0xa00000021 [0x21, 0x00, 0x00, 0x00,
      0x0a, 0x00, 0x00, 0x00] ∧
    Atomically [(.r0, 0x7), (.r2, 0xa00000021)] 0x000000f1fff82adb .r0 0x1fffffff0 [0xf0, 0xff, 0xff, 0xff, 0x01,
      0x00, 0x00, 0x00] := by decide

/-- V-LDDW-01, V-LDDW-03. -/
theorem test_lddw :
    regAfter (box defaultParams [] [] [0x0000000000000118, 0x1122334455667788]) .r1 = some 0x1122334455667788 ∧
    regAfter (box defaultParams [] [] [0x0000000000000118, 0xffffffffffffffff]) .r1 = some 0xffffffffffffffff := by
  decide

/-- V-PKT-01, V-PKT-04, V-PKT-05, V-PKT-07, V-PKT-08, V-PKT-09. -/
theorem test_packet_1 :
    regAfter (box defaultParams [(.r1, 0x5000), (.r3, 0x7), (.r6, 0x5000)] [] [0x0000000000000020]) .r0 =
      some 0x112233 ∧
    outcomeAfter (box defaultParams [(.r6, 0x5000)] [] [0x0000000f00000020]) = some .abort ∧
    regAfter (box defaultParams [(.r6, 0x5000)] [] [0x0000000c00000028]) .r0 = some 0x800 ∧
    outcomeAfter (box defaultParams [(.r6, 0x5000)] [] [0x0000001100000028]) = some .abort ∧
    regAfter (box defaultParams [(.r6, 0x5000)] [] [0x0000001100000030]) .r0 = some 0x54 ∧
    outcomeAfter (box defaultParams [(.r6, 0x5000)] [] [0x0000001200000030]) = some .abort := by decide

/-- V-PKT-11, V-PKT-16, V-PKT-12, V-PKT-13, V-PKT-14. -/
theorem test_packet_2 :
    regAfter (box defaultParams [(.r2, 0x2), (.r6, 0x5000)] [] [0x0000000a00002040]) .r0 = some 0x8004500 ∧
    outcomeAfter (box defaultParams [(.r2, 0xf), (.r6, 0x5000)] [] [0x0000000000002040]) = some .abort ∧
    regAfter (box defaultParams [(.r6, 0x5000), (.r7, 0x2)] [] [0x0000000c00007048]) .r0 = some 0x4500 ∧
    regAfter (box defaultParams [(.r2, 0x5), (.r6, 0x5000)] [] [0xfffffffd00002050]) .r0 = some 0x22 ∧
    outcomeAfter (box defaultParams [(.r2, 0x2), (.r6, 0x5000)] [] [0xfffffffd00002050]) = some .abort := by decide

/-- The same instructions under the other values of the parameters (R115, R116, R117, R183, R188, R48, R300). -/
theorem test_other_parameters :
    regAfter (box { defaultParams with negSemantics := .twosComplement } [(.r1, 5)] [] [0x0000000000000184]) .r1 =
      some 0x00000000fffffffb ∧
    regAfter (box { defaultParams with negSemantics := .twosComplement } [(.r1, 5)] [] [0x0000000000000187]) .r1 =
      some 0xfffffffffffffffb ∧
    regAfter (box { defaultParams with divByZero := .zeroAndKeep } [(.r1, 7), (.r2, 0)] [] [0x000000000000213f]) .r1 =
      some 0 ∧
    regAfter (box { defaultParams with divByZero := .zeroAndKeep } [(.r1, 0x100000007), (.r2, 0)] []
      [0x000000000000219c]) .r1 = some 7 ∧
    regAfter (box { defaultParams with shiftOverflow := .mask } [(.r1, 1), (.r2, 0x20)] [] [0x000000000000217c]) .r1 =
      some 1 ∧
    regAfter (box { defaultParams with hostEndian := .big } [(.r1, 0x1122334455667788)] [] [0x00000010000001d4]) .r1 =
      some 0x8877 ∧
    regAfter (box { defaultParams with hostEndian := .big } [(.r1, 0x1122334455667788)] [] [0x00000040000001dc]) .r1 =
      some 0x1122334455667788 ∧
    memAfter (box { defaultParams with misaligned := .permit } [(.r1, 0x1234)] [] [0x00000000fff91a6b]) =
      some [(0x11f9, 0x34), (0x11fa, 0x12)] ∧
    regAfter (box { defaultParams with lddwLayout := .splitHalves } [] [] [0x5566778800000118, 0x1122334400000000]) .r1 =
      some 0x1122334455667788 := by decide

/-- V-JMP-01, V-JMP-04, V-JMP-05, V-JMP-36 to V-JMP-39. -/
theorem test_ja_call_exit :
    jumped [] 0x0000000000000005 = some 11 ∧
    jumped [] 0x00000000fff50005 = some 0 ∧
    jumped [] 0x00000000fff40005 = some (-1) ∧
    regAfter (box defaultParams [(.r1, 0x28), (.r2, 2), (.r3, 9), (.r6, 0x66)] [] [0x0000000700000085]) .r0 =
      some 0x2a ∧
    regAfter (box defaultParams [(.r1, 0x28), (.r2, 2), (.r3, 9), (.r6, 0x66)] [] [0x0000000700000085]) .r3 = none ∧
    outcomeAfter (box defaultParams [(.r1, 0x28), (.r2, 2)] [] [0x0000000800000085]) =
      some (.fault (.unknownFunction 8)) ∧
    outcomeAfter (box defaultParams [(.r0, 0x2a)] [] [0x0000000000000095]) = some (.exit 0x2a) ∧
    outcomeAfter (box defaultParams [] [] [0x0000000000000095]) = some (.fault (.uninitRegister .r0)) := by decide

/-! ### From reset, and the words the host places -/

/-- Reset has no program: the first step takes `PcOutOfRange(0)` (log entry 8). With a word placed, the step runs it.
-/
theorem test_reset :
    outcomeAfter State.reset = some (.fault (.pcOutOfRange 0)) ∧
    regAfter (State.reset.withFetchWord 64 0xfffffffe000003b7) .r3 = some 0xfffffffffffffffe ∧
    regAfter (State.reset.withFetchWord 128 0x11223344556677880000000000000118) .r1 = some 0x1122334455667788 ∧
    pcAfter (State.reset.withFetchWord 128 0x11223344556677880000000000000118) = some 2 ∧
    memAfter (State.reset.withFetchWord 64 0x000000ffffff0a72) = some [(0x11ff, 0xff)] := by decide

/-- The bytes of a program file for a little-endian host (R72). -/
theorem test_programOfBytes :
    programOfBytes .little [0x72, 0x0a, 0xff, 0xff, 0xff, 0x00, 0x00, 0x00] = some [0x000000ffffff0a72] ∧
    programOfBytes .little [0x72, 0x0a, 0xff, 0xff, 0xff, 0x00, 0x00] = none ∧
    bytesOfSlot 0x00000000fffc21ce = [0xce, 0x21, 0xfc, 0xff, 0x00, 0x00, 0x00, 0x00] := by decide

/-! ### Witnesses: the hypotheses of the statements can be met -/

/-- The state a step or a meaning answers. -/
def next? (o : Host.Outcome State Fault Refusal) : Option State :=
  match o with
  | .next t => some t
  | .fault _ => none
  | .refused _ => none

theorem eq_next_of_next? {o : Host.Outcome State Fault Refusal} {t : State} (h : next? o = some t) : o = .next t := by
  cases o with
  | next u => simpa [next?] using h
  | fault f => simp [next?] at h
  | refused r => simp [next?] at h

/-- The value an operation answers. -/
def ok? {ε α : Type} (e : Except ε α) : Option α :=
  match e with
  | .ok a => some a
  | .error _ => none

theorem eq_ok_of_ok? {ε α : Type} {e : Except ε α} {a : α} (h : ok? e = some a) : e = .ok a := by
  cases e with
  | ok b => simpa [ok?] using h
  | error f => simp [ok?] at h

/-- The fault an operation raises. -/
def error? {ε α : Type} (e : Except ε α) : Option ε :=
  match e with
  | .ok _ => none
  | .error f => some f

theorem eq_error_of_error? {ε α : Type} {e : Except ε α} {f : ε} (h : error? e = some f) : e = .error f := by
  cases e with
  | ok b => simp [error?] at h
  | error g => simpa [error?] using h

/-- A read-only region. -/
def romRegion : Region := { base := 0x8000, length := 16, readable := true, writable := false, shared := false }

/-- A write-only region. -/
def portRegion : Region := { base := 0x8800, length := 8, readable := false, writable := true, shared := false }

/-- A region that other agents write too. -/
def sharedRegion : Region := { base := 0x9000, length := 8, readable := true, writable := true, shared := true }

/-- Called function 9, which fails with its first argument as information. -/
def failHelper : Helper :=
  { number := 9, reads := [.r1], kind := .script (.branch (.const 1) (.fail (.value 0)) (.ret (.const 0))) }

/-- A program: an addition, a wide instruction whose second slot looks like the start of another, a byte store at R1 +
0, and at the end `exit`. -/
def yardProgram : List Word :=
  [0x0000000500000107, 0x0000000000000318, 0x0000000000000018, 0x000000aa00000172, 0x0000000000000095]

/-- The machine of the witnesses, with its parameters and `pc`: R0, R1, R2 and R6 hold values, R3 to R5 and R7 to R9
none; the last 8 bytes of the stack hold 1 to 8. -/
def yard (p : Params) (pc : Int) : State :=
  { box p [(.r0, 7), (.r1, 0x11f8), (.r2, 0), (.r6, 0x5000)] (bytesAt 0x11f8 [1, 2, 3, 4, 5, 6, 7, 8]) yardProgram with
    pc := pc
    regions := [stackRegion 0x1000 512, romRegion, portRegion, sharedRegion]
    helpers := [addHelper, failHelper]
    abortResult := some 3 }

/-- The same with one register changed. -/
def yardWith (r : Reg) (v : Option Word) : State :=
  { yard defaultParams 0 with regs := (yard defaultParams 0).regs.set r v }

/-- A launch that the spec admits. -/
def yardLaunch : LaunchConfig :=
  { params := defaultParams, program := yardProgram, stackBase := 0x1000, stackSize := 512,
    otherRegions := [romRegion], content := bytesAt 0x8000 [1, 2], helpers := [], packet := none, arg1 := some 1,
    arg2 := none, arg3 := none, arg4 := none, arg5 := none, abortResult := none }

/-- LaunchState, LaunchInvariant: an admitted launch, and the first and the last byte of its stack. -/
theorem witness_launch :
    yardLaunch.ok = true ∧ yardLaunch.stackBase ≤ 0x1000 ∧ 0x11ff < yardLaunch.stackBase + yardLaunch.stackSize := by
  decide

theorem yard_inv : (yard defaultParams 3).Inv where
  memWf := by decide
  cells := by decide
  regions := by decide
  framePtr := by decide

/-- InvariantKept, SettingKept: a step from a state with the invariant, which stores a byte. -/
theorem witness_InvariantKept :
    (yard defaultParams 3).Inv ∧
    step (yard defaultParams 3) = .next { goOn (yard defaultParams 3) with
      mem := bytesAt 0x11f8 [0xaa, 2, 3, 4, 5, 6, 7, 8] } :=
  ⟨yard_inv, eq_next_of_next? (by decide)⟩

/-- ReadOnlyMemory: the first and the last byte of the read-only region, and the byte after it, in no region. -/
theorem witness_ReadOnlyMemory : ∀ a ∈ [0x8000, 0x800f, 0x8010],
    step (yard defaultParams 3) = .next { goOn (yard defaultParams 3) with
      mem := bytesAt 0x11f8 [0xaa, 2, 3, 4, 5, 6, 7, 8] } ∧
    (∀ r ∈ (yard defaultParams 3).regions, inRegion r a = true → r.writable = false) :=
  fun a h => ⟨eq_next_of_next? (by decide), by revert a; decide⟩

/-- StepRunsDecoded: slot 0, a wide instruction, and the last slot. -/
theorem witness_StepRunsDecoded :
    (yard defaultParams 0).outcome = .running ∧
    (yardProgram[0]? = some 0x0000000500000107 ∧ isSecondSlot yardProgram 0 = false ∧
      decode defaultParams 0x0000000500000107 yardProgram[1]? = .ok (.add64K .r1 5)) ∧
    (yardProgram[1]? = some 0x0000000000000318 ∧ isSecondSlot yardProgram 1 = false ∧
      decode defaultParams 0x0000000000000318 yardProgram[2]? = .ok (.lddw .r3 0x18)) ∧
    (yardProgram[4]? = some 0x0000000000000095 ∧ isSecondSlot yardProgram 4 = false ∧
      decode defaultParams 0x0000000000000095 yardProgram[5]? = .ok .exit) :=
  ⟨by decide, ⟨by decide, by decide, eq_ok_of_ok? (by decide)⟩, ⟨by decide, by decide, eq_ok_of_ok? (by decide)⟩,
    by decide, by decide, eq_ok_of_ok? (by decide)⟩

/-- StepFaultsAtFetch: `pc` at -1, at the number of slots, at a second slot; a slot that the decoder refuses. -/
theorem witness_StepFaultsAtFetch :
    (yard defaultParams (-1)).pc < 0 ∧
    (yardProgram.length : Int) ≤ (yard defaultParams 5).pc ∧
    isSecondSlot yardProgram (yard defaultParams 2).pc.toNat = true ∧
    decode defaultParams 0 yardProgram[1]? = .error .reservedOpcode ∧ isSecondSlot [0] 0 = false :=
  ⟨by decide, by decide, by decide, eq_error_of_error? (by decide), by decide⟩

/-- SecondSlotWalk: a first slot with opcode 0x18, its second slot with that opcode too, and the last slot. -/
theorem witness_SecondSlotWalk :
    yardProgram[1]? = some 0x0000000000000318 ∧ isSecondSlot yardProgram 2 = true ∧
    yardProgram[2]? = some 0x0000000000000018 ∧ isSecondSlot yardProgram 3 = false ∧
    yardProgram[4]? = some 0x0000000000000095 := by decide

/-- EndedRunStays, HostReceives, StepFaultsPrecise: each outcome, and a step that faults. -/
theorem witness_outcomes :
    ({ yard defaultParams 0 with outcome := .exit 5 } : State).outcome = .exit 5 ∧
    ({ yard defaultParams 0 with outcome := .abort } : State).outcome = .abort ∧
    (raise (yard defaultParams 0) .divideByZero).outcome = .fault .divideByZero ∧
    (yard defaultParams 2).outcome = .running ∧
    step (yard defaultParams 2) = .next (raise (yard defaultParams 2) (.pcOutOfRange 2)) ∧
    (raise (yard defaultParams 2) (.pcOutOfRange 2)).outcome = .fault (.pcOutOfRange 2) :=
  ⟨by decide, by decide, by decide, by decide, eq_next_of_next? (by decide), by decide⟩

/-- SelectedByImm, WideByOpcode, EncodeDecode, DecodedWellFormed: words that decode, with each opcode the statements
name, and under `v1` and `twos_complement`. -/
theorem witness_decodes :
    decode defaultParams 0x00000040000001d4 none = .ok (.le64 .r1) ∧ opcodeField 0x00000040000001d4 = 0xd4 ∧
    decode defaultParams 0x00000010000001dc none = .ok (.be16 .r1) ∧ opcodeField 0x00000010000001dc = 0xdc ∧
    decode defaultParams 0x000000f1000021c3 none = .ok (.atomicCmpxchg32 .r1 .r2 0) ∧
    opcodeField 0x000000f1000021c3 = 0xc3 ∧
    decode defaultParams 0x00000000000021db none = .ok (.atomicAdd64 .r1 .r2 0) ∧
    opcodeField 0x00000000000021db = 0xdb ∧
    decode defaultParams 0x0000000000000118 (some 0xffffffffffffffff) = .ok (.lddw .r1 0xffffffffffffffff) ∧
    opcodeField 0x0000000000000118 = 0x18 ∧
    decode { defaultParams with isaVersion := .v1, negSemantics := .twosComplement } 0x0000000000000187 none =
      .ok (.neg64K .r1 0) ∧ opcodeField 0x0000000000000187 ≠ 0x18 :=
  ⟨eq_ok_of_ok? (by decide), by decide, eq_ok_of_ok? (by decide), by decide, eq_ok_of_ok? (by decide), by decide,
    eq_ok_of_ok? (by decide), by decide, eq_ok_of_ok? (by decide), by decide, eq_ok_of_ok? (by decide), by decide⟩

/-- NoOtherAtomics: the first and the last opcode of the list, and selectors next to the ten. -/
theorem witness_NoOtherAtomics :
    opcodeField 0x00000000000021cb ∈ ([0xcb, 0xd3, 0xc2, 0xca, 0xd2, 0xda, 0xc0, 0xc8, 0xd0, 0xd8, 0xc1, 0xc9, 0xd1,
      0xd9] : List (BitVec 8)) ∧
    opcodeField 0x00000000000021d9 ∈ ([0xcb, 0xd3, 0xc2, 0xca, 0xd2, 0xda, 0xc0, 0xc8, 0xd0, 0xd8, 0xc1, 0xc9, 0xd1,
      0xd9] : List (BitVec 8)) ∧
    (opcodeField 0x00000002000021c3 = 0xc3 ∧ immField 0x00000002000021c3 ∉ ([0x00, 0x01, 0x40, 0x41, 0x50, 0x51, 0xa0,
      0xa1, 0xe1, 0xf1] : List Imm)) ∧
    (opcodeField 0x000000f0000021db = 0xdb ∧ immField 0x000000f0000021db ∉ ([0x00, 0x01, 0x40, 0x41, 0x50, 0x51, 0xa0,
      0xa1, 0xe1, 0xf1] : List Imm)) := by decide

/-- DecodeEncode, IllFormedTaken: well-formed terms of each kind of encoding, and one that is not. -/
theorem witness_DecodeEncode :
    (Instr.add64K .r9 0xffffffff).WellFormed defaultParams ∧ (Instr.lddw .r0 0).WellFormed defaultParams ∧
    (Instr.atomicCmpxchg64 .r10 .r10 0x8000).WellFormed defaultParams ∧
    (Instr.mov64X .r10 .r1).illFormed? defaultParams = some .writeToR10 := by decide

/-- LoadCheckSound: a program that passes, and a fetch past its end. -/
theorem witness_LoadCheckSound :
    loadCheck (yard defaultParams 5).params (yard defaultParams 5).program = true ∧
    fetch (yard defaultParams 5) = .error (.pcOutOfRange 5) :=
  ⟨by decide, eq_error_of_error? (by decide)⟩

/-- RegisterFile: a register that holds `novalue`, and two different ones. -/
theorem witness_RegisterFile : (yard defaultParams 0).regs.get .r3 = none ∧ Reg.r9 ≠ .r10 ∧ Reg.r0 ≠ .r9 := by decide

/-- RegisterFrame, MemoryFrame, PcRule, OutcomeSources: what an instruction of each kind answers. -/
theorem witness_frames :
    (exec (.add64K .r1 5) (yard defaultParams 0) = .next (put (yard defaultParams 0) .r1 0x11fd) ∧
      Reg.r2 ∉ (Instr.add64K .r1 5).written ∧ storeTarget (.add64K .r1 5) = none) ∧
    (exec (.stb .r1 7 0xaa) (yard defaultParams 0) = .next { goOn (yard defaultParams 0) with
        mem := bytesAt 0x11f8 [1, 2, 3, 4, 5, 6, 7, 0xaa] } ∧
      storeTarget (.stb .r1 7 0xaa) = some (.r1, 7, .b) ∧ (yard defaultParams 0).regs.get .r1 = some 0x11f8) ∧
    (exec (.stb .r3 0 1) (yard defaultParams 0) = .next (raise (yard defaultParams 0) (.uninitRegister .r3)) ∧
      (yard defaultParams 0).regs.get .r3 = none) ∧
    (exec (.ja 0xffff) (yard defaultParams 0) = .next (yard defaultParams 0) ∧ jumpOffset (.ja 0xffff) = some 0xffff) ∧
    exec .exit (yard defaultParams 0) = .next { yard defaultParams 0 with outcome := .exit 7 } ∧
    exec (.ldabsb 18) (yard defaultParams 0) = .next { yard defaultParams 0 with outcome := .abort } :=
  ⟨⟨eq_next_of_next? (by decide), by decide, by decide⟩, ⟨eq_next_of_next? (by decide), by decide, by decide⟩,
    ⟨eq_next_of_next? (by decide), by decide⟩, ⟨eq_next_of_next? (by decide), by decide⟩,
    eq_next_of_next? (by decide), eq_next_of_next? (by decide)⟩

/-- FaultSources, ReadOrder: faults of a well-formed instruction; an unreadable register after a readable one. -/
theorem witness_faults :
    (exec (.div64X .r1 .r2) (yard defaultParams 0) = .next (raise (yard defaultParams 0) .divideByZero) ∧
      (yard defaultParams 0).outcome ≠ .fault .divideByZero) ∧
    (exec (.call 8) (yard defaultParams 0) = .next (raise (yard defaultParams 0) (.unknownFunction 8)) ∧
      (yard defaultParams 0).outcome ≠ .fault (.unknownFunction 8)) ∧
    ((Instr.atomicCmpxchg64 .r1 .r2 0).WellFormed defaultParams ∧
      (Instr.atomicCmpxchg64 .r1 .r2 0).reads defaultParams = [Reg.r1, .r2] ++ Reg.r0 :: [] ∧
      (∀ q ∈ [Reg.r1, .r2], ((yardWith .r0 none).regs.get q).isSome = true) ∧ (yardWith .r0 none).regs.get .r0 = none) :=
  ⟨⟨eq_next_of_next? (by decide), by decide⟩, ⟨eq_next_of_next? (by decide), by decide⟩, by decide⟩

/-- AddSubMulModuloWidth, OrAndXorBitByBit, MovStoresSource, ByteSwaps and the formats of arithmetic: readable and
unreadable registers (the highest that can be a destination among them), and words with each fault of encoding at its
bound. -/
theorem witness_arithmetic :
    (Reg.r1 ≠ .r10 ∧ (yard defaultParams 0).regs.get .r1 = some 0x11f8 ∧ (yard defaultParams 0).regs.get .r2 = some 0 ∧
      (yard defaultParams 0).regs.get .r10 = some 0x1200) ∧
    (Reg.r9 ≠ .r10 ∧ (yard defaultParams 0).regs.get .r9 = none) ∧
    (opcodeField 0x0000000000001004 = 0x04 ∧ srcField 0x0000000000001004 ≠ 0) ∧
    (opcodeField 0x0000000080000004 = 0x04 ∧ offField 0x0000000080000004 ≠ 0) ∧
    (opcodeField 0x0000000000000a04 = 0x04 ∧ 10 ≤ (dstField 0x0000000000000a04).toNat) ∧
    (opcodeField 0x000000000000b00c = 0x0c ∧ 10 < (srcField 0x000000000000b00c).toNat) ∧
    (opcodeField 0x800000000000000c = 0x0c ∧ immField 0x800000000000000c ≠ 0) ∧
    (opcodeField 0x0000001000000ad4 = 0xd4 ∧ 10 ≤ (dstField 0x0000001000000ad4).toNat) ∧
    (yard { defaultParams with hostEndian := .big } 0).params.hostEndian ≠ .little := by decide

/-- DivModUnsigned, ShiftsByAmount: a divisor of 1 and of 0, an amount one below, at, and above the width, under both
values of the parameters. -/
theorem witness_partial :
    (1#64).toNat ≠ 0 ∧ ¬ ((0#32).toNat ≠ 0) ∧ (31#32).toNat < 32 ∧ ¬ ((32#32).toNat < 32) ∧ (63#64).toNat < 64 ∧
    ¬ ((64#64).toNat < 64) ∧ defaultParams.divByZero = .fault ∧ defaultParams.shiftOverflow = .fault ∧
    ¬ ((yard { defaultParams with divByZero := .zeroAndKeep } 0).params.divByZero = .fault) ∧
    ¬ ((yard { defaultParams with shiftOverflow := .mask } 0).params.shiftOverflow = .fault) ∧
    (yardWith .r2 (some 0x3f)).regs.get .r2 = some 63 ∧ (yardWith .r2 (some 0x40)).regs.get .r2 = some 64 ∧
    (yardWith .r2 (some 0x1f)).regs.get .r2 = some 31 ∧ (yardWith .r2 (some 0x20)).regs.get .r2 = some 32 := by decide

/-- NegBothReadings: both values of `NEG_SEMANTICS`, readable and unreadable registers, and the refused forms. -/
theorem witness_NegBothReadings :
    Reg.r1 ≠ .r10 ∧ defaultParams.negSemantics = .sourceLiteral ∧
    ({ defaultParams with negSemantics := .twosComplement } : Params).negSemantics = .twosComplement ∧
    (yard defaultParams 0).regs.get .r2 = some 0 ∧ (yard defaultParams 0).regs.get .r3 = none ∧
    (yard { defaultParams with negSemantics := .twosComplement } 0).regs.get .r3 = none ∧
    opcodeField 0x000000000000218c = 0x8c ∧ (opcodeField 0x0000000100000187 = 0x87 ∧ immField 0x0000000100000187 ≠ 0) ∧
    (opcodeField 0x0000000000001184 = 0x84 ∧ srcField 0x0000000000001184 ≠ 0) ∧
    (opcodeField 0x000000000000b18f = 0x8f ∧ 10 < (srcField 0x000000000000b18f).toNat) := by decide

/-- JumpAlways: targets just before slot 0, just after the last slot, and the second slot; refused words. -/
theorem witness_JumpAlways :
    ((yard defaultParams 0).outcome = .running ∧ (yard defaultParams 0).pc + 1 + (0xfffe#16).toInt < 0) ∧
    ((yard defaultParams 0).program.length : Int) ≤ (yard defaultParams 0).pc + 1 + (4#16).toInt ∧
    isSecondSlot (yard defaultParams 0).program ((yard defaultParams 0).pc + 1 + (1#16).toInt).toNat = true ∧
    (opcodeField 0x0000000100000005 = 0x05 ∧ immField 0x0000000100000005 ≠ 0) ∧ opcodeField 0x000000000000000d = 0x0d ∧
    opcodeField 0x000000000000000e = 0x0e := by decide

/-- The conditional jumps, with an immediate and with a register: operands for which each condition holds and does
not, at the signed and unsigned bounds. -/
theorem witness_CondJumps :
    (yardWith .r1 (some (-1))).regs.get .r1 = some 0xffffffffffffffff ∧
    ((0#64).toNat < (0xffffffffffffffff#64).toNat ∧ ¬ ((0xffffffffffffffff#64).toInt > (0#64).toInt)) ∧
    ((0x80000000#32).toInt < (0x7fffffff#32).toInt ∧ ¬ ((0x80000000#32).toNat < (0x7fffffff#32).toNat)) ∧
    ((1#64).toNat ≤ (1#64).toNat ∧ ¬ ((1#64).toNat < (1#64).toNat)) ∧
    (∃ k, (0x8000000000000001#64).getLsbD k = true ∧ (0x8000000000000000#64).getLsbD k = true) ∧
    (¬ ∃ k, (1#64).getLsbD k = true ∧ (0#64).getLsbD k = true) ∧
    (yard defaultParams 0).regs.get .r3 = none ∧
    (opcodeField 0x0000000000001015 = 0x15 ∧ srcField 0x0000000000001015 ≠ 0) ∧
    (opcodeField 0x0000000000000b1d = 0x1d ∧ 10 < (dstField 0x0000000000000b1d).toNat) :=
  ⟨by decide, by decide, by decide, by decide, ⟨63, by decide⟩, by simp, by decide, by decide, by decide⟩

/-- CallRunsHelper: no function of the number, one that answers, one that faults, one without actions and its
arguments, and an argument register that holds `novalue`. -/
theorem witness_CallRunsHelper :
    findHelper (yard defaultParams 0).helpers 8 = none ∧
    (findHelper (yard defaultParams 0).helpers 7 = some addHelper ∧
      applyHelper addHelper (yard defaultParams 0) = .ok (0x11f8, yard defaultParams 0)) ∧
    (findHelper (yard defaultParams 0).helpers 9 = some failHelper ∧
      applyHelper failHelper (yard defaultParams 0) = .error (.helperFault 9 0x11f8)) ∧
    (addHelper.kind = .script (.ret (.binary .add (.value 0) (.value 1))) ∧
      (argRegs addHelper.reads).map (yard defaultParams 0).regs.get = [0x11f8, 0].map some) ∧
    (argRegs addHelper.reads = [Reg.r1] ++ Reg.r2 :: [] ∧ ((yardWith .r2 none).regs.get .r1).isSome = true ∧
      (yardWith .r2 none).regs.get .r2 = none) ∧
    (opcodeField 0x0000000000001085 = 0x85 ∧ srcField 0x0000000000001085 ≠ 0) :=
  ⟨by decide, ⟨by decide, eq_ok_of_ok? (by decide)⟩, ⟨by decide, eq_error_of_error? (by decide)⟩, by decide, by decide,
    by decide⟩

/-- Called function 11, which reads R1, reads R2 only where R1 is not zero, and stores R2 at R1. -/
def choosingHelper : Helper :=
  { number := 11, reads := [.r1],
    kind := .script (.branch (.value 0) (.readArgs [.r2] (.store (.value 0) .b (.value 1) (.ret (.value 1))))
      (.ret (.const 5))) }

/-- A function that reads R2 for some values of R1 only (R244): where it does not read R2, that register may hold
`novalue`, and where it does, it may not. -/
theorem test_choosingHelper :
    ok? (applyHelper choosingHelper { yardWith .r2 none with regs := (yardWith .r2 none).regs.set .r1 (some 0) }) =
      some (5, { yardWith .r2 none with regs := (yardWith .r2 none).regs.set .r1 (some 0) }) ∧
    error? (applyHelper choosingHelper (yardWith .r2 none)) = some (.uninitRegister .r2) ∧
    (ok? (applyHelper choosingHelper (yardWith .r2 (some 0xab)))).map (fun x => (x.1, x.2.mem)) =
      some (0xab, bytesAt 0x11f8 [0xab, 2, 3, 4, 5, 6, 7, 8]) := by decide

/-- CallRunsHelper, the actions: registers that can be read and one that cannot, an access of each kind that succeeds
and one that faults, and a function outside the model. -/
theorem witness_HelperActions :
    (argRegs [.r2, .r1, .r9]).map (yard defaultParams 0).regs.get = [0x11f8, 0].map some ∧
    (argRegs [.r3, .r1] = [Reg.r1] ++ Reg.r3 :: [] ∧ ((yard defaultParams 0).regs.get .r1).isSome = true ∧
      (yard defaultParams 0).regs.get .r3 = none) ∧
    memRead (yard defaultParams 0) (evalHelper [0x11ff] (.value 0)) .b = .ok (8, yard defaultParams 0) ∧
    memRead (yard defaultParams 0) (evalHelper [0x1200] (.value 0)) .b = .error (.memFault 0x1200 1 .read) ∧
    memWrite (yard defaultParams 0) (evalHelper [] (.const 0x11f8)) .b (evalHelper [] (.const 9)) =
      .ok { yard defaultParams 0 with mem := bytesAt 0x11f8 [9, 2, 3, 4, 5, 6, 7, 8] } ∧
    memWrite (yard defaultParams 0) (evalHelper [] (.const 0x8000)) .b (evalHelper [] (.const 9)) =
      .error (.memFault 0x8000 1 .write) ∧
    ({ failHelper with kind := .external } : Helper).kind = .external :=
  ⟨by decide, by decide, eq_ok_of_ok? (by decide), eq_error_of_error? (by decide), eq_ok_of_ok? (by decide),
    eq_error_of_error? (by decide), by decide⟩

/-- A stack region that ends at 2^64, which R43 admits: R10 wraps to 0 (log entry 18). -/
theorem test_stack_at_the_top :
    { yardLaunch with stackBase := 2 ^ 64 - 512 }.ok = true ∧
    (launch { yardLaunch with stackBase := 2 ^ 64 - 512 }).regs.r10 = some 0 := by decide

/-- ExitReturnsR0: R0 with a value and without; a refused word. -/
theorem witness_ExitReturnsR0 :
    (yard defaultParams 0).regs.get .r0 = some 7 ∧ (yardWith .r0 none).regs.get .r0 = none ∧
    opcodeField 0x0000000100000095 = 0x95 ∧ immField 0x0000000100000095 ≠ 0 := by decide

/-- LoadsReadMemory, StoresImmWriteMemory, StoresRegWriteMemory, Atomics32, Atomics64: what the access answers, and
what it raises. -/
theorem witness_accesses :
    (Reg.r2 ≠ .r10 ∧ (yard defaultParams 0).regs.get .r1 = some 0x11f8 ∧
      memRead (yard defaultParams 0) (0x11f8 + (7#16).signExtend 64) .b = .ok (8, yard defaultParams 0) ∧
      memRead (yard defaultParams 0) (0x11f8 + (8#16).signExtend 64) .b = .error (.memFault 0x1200 1 .read)) ∧
    (memWrite (yard defaultParams 0) (0x11f8 + (0#16).signExtend 64) .h ((0xffff0102#32).signExtend 64) =
        .ok { yard defaultParams 0 with mem := bytesAt 0x11f8 [2, 1, 3, 4, 5, 6, 7, 8] } ∧
      memWrite (yard defaultParams 0) (0x11f8 + (1#16).signExtend 64) .h 0 = .error (.misaligned 0x11f9 2)) ∧
    (atomicUpdate (yard defaultParams 0) (0x11f8 + (4#16).signExtend 64) .w (fun o => onLow (fun a b => a + b) o 1) =
        .ok (0x08070605, { yard defaultParams 0 with mem := bytesAt 0x11f8 [1, 2, 3, 4, 6, 6, 7, 8] }) ∧
      atomicUpdate (yard defaultParams 0) (0x11f8 + (0xfff8#16).signExtend 64) .dw (fun o => o + 1) =
        .error (.uninitMemory 0x11f0 8)) ∧
    (yardWith .r2 none).regs.get .r2 = none ∧ (yardWith .r0 none).regs.get .r0 = none ∧
    (opcodeField 0x0000000000000a61 = 0x61 ∧ 10 ≤ (dstField 0x0000000000000a61).toNat) ∧
    (opcodeField 0x0000000000000b62 = 0x62 ∧ 10 < (dstField 0x0000000000000b62).toNat) ∧
    (opcodeField 0x00000001000000c3 = 0xc3 ∧ immField 0x000000010000a0c3 = 1 ∧
      10 ≤ (srcField 0x000000010000a0c3).toNat) :=
  ⟨⟨by decide, by decide, eq_ok_of_ok? (by decide), eq_error_of_error? (by decide)⟩,
    ⟨eq_ok_of_ok? (by decide), eq_error_of_error? (by decide)⟩,
    ⟨eq_ok_of_ok? (by decide), eq_error_of_error? (by decide)⟩, by decide, by decide, by decide, by decide, by decide⟩

/-- LoadImm64: both layouts, a word and second slots that are refused, and slots well-formed under both layouts. -/
theorem witness_LoadImm64 :
    Reg.r9 ≠ .r10 ∧ defaultParams.lddwLayout = .sourceLiteral ∧
    ({ defaultParams with lddwLayout := .splitHalves } : Params).lddwLayout = .splitHalves ∧
    (opcodeField 0x0000000000000a18 = 0x18 ∧ 10 ≤ (dstField 0x0000000000000a18).toNat) ∧
    (opcodeField 0x0000000100000118 = 0x18 ∧ immField 0x0000000100000118 ≠ 0) ∧
    (0x0000000100000001#64).toNat % 2 ^ 32 ≠ 0 ∧
    decode defaultParams 0x0000000000000118 (some 0x0000000100000000) = .ok (.lddw .r1 0x0000000100000000) ∧
    decode { defaultParams with lddwLayout := .splitHalves } 0x0000000000000118 (some 0x0000000100000000) =
      .ok (.lddw .r1 0x0000000100000000) :=
  ⟨by decide, by decide, by decide, by decide, by decide, by decide, eq_ok_of_ok? (by decide),
    eq_ok_of_ok? (by decide)⟩

/-- PacketAbsolute, PacketIndirect: the designator in R6, another value, and none; offsets -1, 0, the last byte and
one past it. -/
theorem witness_Packet :
    (yard defaultParams 0).packet = some framePacket ∧ (yard defaultParams 0).regs.get .r6 = some 0x5000 ∧
    (0x5000 : Word) = framePacket.designator ∧ (0x5001 : Word) ≠ framePacket.designator ∧
    (yardWith .r6 none).regs.get .r6 = none ∧ (yard defaultParams 0).regs.get .r7 = none ∧
    (0xffffffff#32).toInt < 0 ∧ (framePacket.data.length : Int) < (15#32).toInt + 4 ∧
    (0 ≤ (14#32).toInt ∧ (14#32).toInt + 4 ≤ framePacket.data.length) ∧
    (0 ≤ (0 + (17#32).signExtend 64 : Word).toInt ∧
      (0 + (17#32).signExtend 64 : Word).toInt + 1 ≤ framePacket.data.length) ∧
    (opcodeField 0x0000000000000120 = 0x20 ∧ dstField 0x0000000000000120 ≠ 0) ∧
    (opcodeField 0x000000000000b040 = 0x40 ∧ 10 < (srcField 0x000000000000b040).toNat) := by decide

/-- AccessChecks, ReadValue, WriteEffect, AtomicUpdate: an access at the end of the address space, one byte past a
region, and the last bytes of regions of each permission; aligned and not; a `nobyte` and none; the shared region. -/
theorem witness_AccessChecks :
    2 ^ 64 < (0xfffffffffffffffd#64).toNat + Size.w.bytes ∧
    (∀ r ∈ (yard defaultParams 0).regions, ¬ (r.base ≤ (0x11fd#64).toNat ∧
      (0x11fd#64).toNat + Size.w.bytes ≤ r.base + r.length)) ∧
    (regionsOk (yard defaultParams 0).regions = true ∧ stackRegion 0x1000 512 ∈ (yard defaultParams 0).regions ∧
      romRegion ∈ (yard defaultParams 0).regions ∧ portRegion ∈ (yard defaultParams 0).regions ∧
      sharedRegion ∈ (yard defaultParams 0).regions) ∧
    ((stackRegion 0x1000 512).base ≤ (0x11f8#64).toNat ∧
      (0x11f8#64).toNat + Size.dw.bytes ≤ (stackRegion 0x1000 512).base + (stackRegion 0x1000 512).length) ∧
    (romRegion.base ≤ (0x800f#64).toNat ∧ (0x800f#64).toNat + Size.b.bytes ≤ romRegion.base + romRegion.length ∧
      romRegion.writable = false) ∧
    (portRegion.base ≤ (0x8800#64).toNat ∧ (0x8800#64).toNat + Size.dw.bytes ≤ portRegion.base + portRegion.length ∧
      portRegion.readable = false) ∧
    ((0x11f9#64).toNat % Size.h.bytes ≠ 0 ∧ defaultParams.misaligned = .fault) ∧
    (yard { defaultParams with misaligned := .permit } 0).params.misaligned = .permit ∧
    readByte (yard defaultParams 0).mem 0x11f7 = none ∧
    (∀ i < Size.dw.bytes, readByte (yard defaultParams 0).mem (0x11f8 + i) ≠ none) ∧
    (sharedRegion.shared = true ∧ sharedRegion.base ≤ (0x9000#64).toNat ∧
      (0x9000#64).toNat + Size.dw.bytes ≤ sharedRegion.base + sharedRegion.length) := by decide

/-- AtomicUpdate, MixedWidth, ReadAfterWrite: a read and a write that succeed, in each host byte order. -/
theorem witness_ReadAfterWrite :
    memRead (yard defaultParams 0) 0x11f8 .dw = .ok (0x0807060504030201, yard defaultParams 0) ∧
    memWrite (yard defaultParams 0) 0x11f8 .dw 0x1122334455667788 = .ok { yard defaultParams 0 with
      mem := bytesAt 0x11f8 [0x88, 0x77, 0x66, 0x55, 0x44, 0x33, 0x22, 0x11] } ∧
    memWrite (yard { defaultParams with hostEndian := .big } 0) 0x11f8 .dw 0x1122334455667788 =
      .ok { yard { defaultParams with hostEndian := .big } 0 with
        mem := bytesAt 0x11f8 [0x11, 0x22, 0x33, 0x44, 0x55, 0x66, 0x77, 0x88] } ∧
    (stackRegion 0x1000 512).shared = false ∧
    memRead (yard defaultParams 0) 0x11fc .w = .ok (0x08070605, yard defaultParams 0) ∧
    (0x11f8#64).toNat + Size.w.bytes ≤ (0x11fc#64).toNat ∧
    memRead (yard defaultParams 0) 0x11f0 .dw = .error (.uninitMemory 0x11f0 8) :=
  ⟨eq_ok_of_ok? (by decide), eq_ok_of_ok? (by decide), eq_ok_of_ok? (by decide), by decide, eq_ok_of_ok? (by decide),
    by decide, eq_error_of_error? (by decide)⟩

/-- AccessesComplete: bytes of the stack, and one byte of the shared region, whatever the environment holds there. -/
theorem witness_AccessesComplete :
    (InPlace (yard defaultParams 0) (stackRegion 0x1000 512) 0x11f8 .dw ∧
      Shows (yard defaultParams 0) (stackRegion 0x1000 512) 0x11f8 .dw 0x0807060504030201) ∧
    (InPlace (yard defaultParams 0) sharedRegion 0x9007 .b ∧
      Shows (yard defaultParams 0) sharedRegion 0x9007 .b ((Config.oracle 0 0x9007).setWidth 64)) ∧
    Placed (yard { defaultParams with misaligned := .permit } 0) 0x11f9 .h ∧
    (yardWith .r1 (some 0x11f8)).regs.get .r1 = some 0x11f8 ∧ (yardWith .r0 none).regs.get .r0 = none := by
  refine ⟨⟨⟨by decide, by decide, by decide, by decide⟩, by decide, by decide⟩,
    ⟨⟨by decide, by decide, by decide, by decide⟩, ?_, ?_⟩, .inr (by decide), by decide, by decide⟩
  · have h := (Config.oracle 0 0x9007).isLt
    simp only [BitVec.toNat_setWidth, Size.bytes]
    omega
  · intro i hi
    have : i = 0 := by simp only [Size.bytes] at hi; omega
    subst this
    have h := (Config.oracle 0 0x9007).isLt
    refine congrArg some (BitVec.eq_of_toNat_eq ?_)
    show (Config.oracle 0 0x9007).toNat = (((Config.oracle 0 0x9007).setWidth 64).toNat / 2 ^ (8 * 0)) % 2 ^ 8
    simp only [BitVec.toNat_setWidth]
    omega

end Sys2Proof.Tests
end

/-! The scope of the model (`00_scope.md`): a step runs what the decoder answers, and the laws of the register file. -/

namespace Sys2Proof

/-- Every format ends its decoding with the check of well-formedness (R91), so the decoder answers no ill-formed
instruction. -/
theorem wellFormed_of_decode {p : Params} {w : Word} {second : Option Word} {i : Instr}
    (h : decode p w second = .ok i) : i.WellFormed p := by
  cases hf : formOf (opcodeField w) with
  | none => simp [decode, hf] at h
  | some f =>
    cases f with
    | aluK => obtain ⟨d, -, -, -, hw, rfl⟩ := (decode_aluK_iff hf).1 h; exact hw
    | aluX => obtain ⟨d, r, -, -, -, -, hw, rfl⟩ := (decode_aluX_iff hf).1 h; exact hw
    | byteSwap => obtain ⟨d, mk, -, -, -, -, -, hw, rfl⟩ := (decode_byteSwap_iff hf).1 h; exact hw
    | ja => obtain ⟨-, -, -, hw, rfl⟩ := (decode_ja_iff hf).1 h; exact hw
    | jccK => obtain ⟨d, -, -, hw, rfl⟩ := (decode_jccK_iff hf).1 h; exact hw
    | jccX => obtain ⟨d, r, -, -, -, hw, rfl⟩ := (decode_jccX_iff hf).1 h; exact hw
    | call => obtain ⟨-, -, -, hw, rfl⟩ := (decode_call_iff hf).1 h; exact hw
    | exit => obtain ⟨-, -, -, -, hw, rfl⟩ := (decode_exit_iff hf).1 h; exact hw
    | ldx => obtain ⟨d, r, -, -, -, hw, rfl⟩ := (decode_ldx_iff hf).1 h; exact hw
    | st => obtain ⟨d, -, -, hw, rfl⟩ := (decode_st_iff hf).1 h; exact hw
    | stx => obtain ⟨d, r, -, -, -, hw, rfl⟩ := (decode_stx_iff hf).1 h; exact hw
    | atomic => obtain ⟨d, r, mk, -, -, -, hw, rfl⟩ := (decode_atomic_iff hf).1 h; exact hw
    | lddw =>
      obtain ⟨d, v, -, -, -, -, -, ⟨-, -, hw, rfl⟩ | ⟨-, -, hw, rfl⟩⟩ := (decode_lddw_iff hf).1 h
      · exact hw
      · exact hw
    | ldAbs => obtain ⟨-, -, -, hw, rfl⟩ := (decode_ldAbs_iff hf).1 h; exact hw
    | ldInd => obtain ⟨r, -, -, -, hw, rfl⟩ := (decode_ldInd_iff hf).1 h; exact hw

end Sys2Proof

namespace Sys2Proof.Machine

/-- A running machine executes the instruction it fetched (R14). -/
theorem step_of_fetch_ok {s : State} {i : Instr} (hr : s.outcome = .running) (hf : fetch s = .ok i) :
    step s = exec i s := by
  simp only [step, hr, hf]

/-- Settles O8: the fetch is the decoding of the slot at `pc` and the next, and the decoder answers well-formed
instructions only. -/
theorem stepRunsDecoded : Obligations.StepRunsDecoded := by
  intro s k w i hr hp hw hs hd
  have hf : fetch s = .ok i := by rw [fetch_of_slot hp hw hs, hd]; rfl
  exact ⟨step_of_fetch_ok hr hf, wellFormed_of_decode hd⟩

/-- Settles O24, from the laws of `Regs.get` after `Regs.set`. -/
theorem registerFile : Obligations.RegisterFile := by
  intro s r q v
  refine ⟨fun hr => ?readBack, fun hq => ?others, ?readOnly, ?novalue⟩
  case readBack => exact readReg_of_some (by rw [writeReg_regs, get_set_self hr])
  case others => rw [writeReg_regs, get_set_ne hq]
  case readOnly => rw [writeReg, set_r10]
  case novalue => exact readReg_of_none

end Sys2Proof.Machine

/-! The state (`10_state.md`): what an instruction leaves unchanged, where `pc` goes, the order in which registers are
read, and the invariant of the machine from launch and reset on.

The 144 instructions share 21 bodies. `BodyOf` names the body of an instruction, with the registers it writes and reads
and where it goes, so that each frame is proved once for a body and not once for an instruction. -/

namespace Sys2Proof.Machine

/-! ### The bodies of the instructions -/

/-- The register that a source operand reads (R78). -/
def Source.reads : Source → List Reg
  | .k _ => []
  | .x r => [r]

/-- What the tables of R25 and R191 say of an instruction: the registers it writes, those it reads, its jump offset and
its slots. -/
structure Profile (i : Instr) (written : List Reg) (reads : Params → List Reg) (offset : Option Off) (slots : Int) :
    Prop where
  written : i.written = written
  reads : ∀ p, i.reads p = reads p
  offset : jumpOffset i = offset
  slots : slotCount i = slots

/-- The registers that `BPF_NEG` reads (R117). -/
def negReads (dst : Reg) (b : Source) (p : Params) : List Reg :=
  if p.negSemantics = .sourceLiteral then b.reads else dst :: b.reads

/-- The body that the meaning of an instruction runs, one constructor for each of the shared bodies. -/
inductive BodyOf (i : Instr) : (State → Except Fault State) → Prop
  | alu64 (op : AluOp) (dst : Reg) (b : Source) :
      Profile i [dst] (fun _ => dst :: b.reads) none 1 → BodyOf i (alu64 op dst b)
  | alu32 (op : AluOp) (dst : Reg) (b : Source) :
      Profile i [dst] (fun _ => dst :: b.reads) none 1 → BodyOf i (alu32 op dst b)
  | mov64 (dst : Reg) (b : Source) : Profile i [dst] (fun _ => b.reads) none 1 → BodyOf i (mov64 dst b)
  | mov32 (dst : Reg) (b : Source) : Profile i [dst] (fun _ => b.reads) none 1 → BodyOf i (mov32 dst b)
  | neg64 (dst : Reg) (b : Source) : (i.isExtraNegForm = false → b.reads = []) →
      Profile i [dst] (negReads dst b) none 1 → BodyOf i (neg64 dst b)
  | neg32 (dst : Reg) (b : Source) : (i.isExtraNegForm = false → b.reads = []) →
      Profile i [dst] (negReads dst b) none 1 → BodyOf i (neg32 dst b)
  | byteSwap (e : Endian) (n : Nat) (dst : Reg) :
      Profile i [dst] (fun _ => [dst]) none 1 → BodyOf i (byteSwap e n dst)
  | jumpAlways (off : Off) : Profile i [] (fun _ => []) (some off) 1 → BodyOf i (jumpAlways off)
  | jump64 (c : Cond) (dst : Reg) (b : Source) (off : Off) :
      Profile i [] (fun _ => dst :: b.reads) (some off) 1 → BodyOf i (jump64 c dst b off)
  | jump32 (c : Cond) (dst : Reg) (b : Source) (off : Off) :
      Profile i [] (fun _ => dst :: b.reads) (some off) 1 → BodyOf i (jump32 c dst b off)
  | callHelper (n : Imm) :
      Profile i [.r0, .r1, .r2, .r3, .r4, .r5] (fun _ => []) none 1 → BodyOf i (callHelper n)
  | exitProgram : Profile i [] (fun _ => [.r0]) none 1 → BodyOf i exitProgram
  | loadReg (z : Size) (dst src : Reg) (off : Off) :
      Profile i [dst] (fun _ => [src]) none 1 → BodyOf i (loadReg z dst src off)
  | storeImm (z : Size) (dst : Reg) (off : Off) (imm : Imm) :
      Profile i [] (fun _ => [dst]) none 1 → BodyOf i (storeImm z dst off imm)
  | storeReg (z : Size) (dst src : Reg) (off : Off) :
      Profile i [] (fun _ => [dst, src]) none 1 → BodyOf i (storeReg z dst src off)
  | atomicPlain (z : Size) (f : Word → Word → Word) (dst src : Reg) (off : Off) :
      Profile i [] (fun _ => [dst, src]) none 1 → BodyOf i (atomicPlain z f dst src off)
  | atomicFetch (z : Size) (f : Word → Word → Word) (dst src : Reg) (off : Off) :
      Profile i [src] (fun _ => [dst, src]) none 1 → BodyOf i (atomicFetch z f dst src off)
  | atomicCompare (z : Size) (dst src : Reg) (off : Off) :
      Profile i [.r0] (fun _ => [dst, src, .r0]) none 1 → BodyOf i (atomicCompare z dst src off)
  | loadImm64 (dst : Reg) (v : Word) : Profile i [dst] (fun _ => []) none 2 → BodyOf i (loadImm64 dst v)
  | loadAbs (z : Size) (imm : Imm) :
      Profile i [.r0, .r1, .r2, .r3, .r4, .r5] (fun _ => [.r6]) none 1 → BodyOf i (loadAbs z imm)
  | loadInd (z : Size) (src : Reg) (imm : Imm) :
      Profile i [.r0, .r1, .r2, .r3, .r4, .r5] (fun _ => [.r6, src]) none 1 → BodyOf i (loadInd z src imm)

/-- Every instruction runs one of the shared bodies, with its own registers, offset and slots. The arm of `exec` gives
the body, the body its constructor, and the tables agree by computation; `BPF_NEG` has its forms to tell besides. -/
theorem exists_bodyOf (i : Instr) : ∃ body, BodyOf i body ∧ ∀ s, exec i s = attempt i s body := by
  cases i with
  | neg32K dst imm => exact ⟨_, .neg32 dst (.k imm) (fun _ => rfl) ⟨rfl, fun _ => rfl, rfl, rfl⟩, fun _ => rfl⟩
  | neg32X dst src => exact ⟨_, .neg32 dst (.x src) nofun ⟨rfl, fun _ => rfl, rfl, rfl⟩, fun _ => rfl⟩
  | neg64K dst imm => exact ⟨_, .neg64 dst (.k imm) (fun _ => rfl) ⟨rfl, fun _ => rfl, rfl, rfl⟩, fun _ => rfl⟩
  | neg64X dst src => exact ⟨_, .neg64 dst (.x src) nofun ⟨rfl, fun _ => rfl, rfl, rfl⟩, fun _ => rfl⟩
  | _ => exact ⟨_, by constructor; exact ⟨rfl, fun _ => rfl, rfl, rfl⟩, fun _ => rfl⟩

/-! ### What an instruction leaves unchanged -/

/-- `t` differs from `s` in memory and the count of shared reads alone, and there as `Bounded` says. -/
structure OnlyMemory (s t : State) : Prop where
  bounded : Bounded s t
  regs : t.regs = s.regs
  pc : t.pc = s.pc
  outcome : t.outcome = s.outcome

theorem OnlyMemory.refl (s : State) : OnlyMemory s s := ⟨.refl s, rfl, rfl, rfl⟩

theorem onlyMemory_memRead {s t : State} {addr v : Word} {z : Size} (h : memRead s addr z = .ok (v, t)) :
    OnlyMemory s t := by
  have ht := memRead_frame h
  exact ⟨bounded_memRead h, by rw [ht], by rw [ht], by rw [ht]⟩

theorem onlyMemory_memWrite {s t : State} {addr v : Word} {z : Size} (h : memWrite s addr z v = .ok t) :
    OnlyMemory s t := by
  obtain ⟨ht, -⟩ := memWrite_frame h
  exact ⟨bounded_memWrite h, by rw [ht], by rw [ht], by rw [ht]⟩

theorem onlyMemory_atomicUpdate {s t : State} {addr old : Word} {z : Size} {f : Word → Word}
    (h : atomicUpdate s addr z f = .ok (old, t)) : OnlyMemory s t := by
  obtain ⟨ht, -⟩ := atomicUpdate_frame h
  exact ⟨bounded_atomicUpdate h, by rw [ht], by rw [ht], by rw [ht]⟩

theorem onlyMemory_atomicAccess {s t : State} {old : Word} {z : Size} {dst src : Reg} {off : Off}
    {f : Word → Word → Word} (h : atomicAccess z dst src off f s = .ok (old, t)) : OnlyMemory s t := by
  obtain ⟨_, _, -, -, h⟩ := atomicAccess_eq_ok.1 h
  exact onlyMemory_atomicUpdate h

theorem onlyMemory_applyHelper {g : Helper} {s t : State} {v : Word} (h : applyHelper g s = .ok (v, t)) :
    OnlyMemory s t := by
  obtain ⟨hb, hr, hp, ho⟩ := bounded_applyHelper h
  exact ⟨hb, hr, hp, ho⟩

/-- Where `pc` goes when the run goes on: by the slots of the instruction, or, for a jump, to the next slot or the
target (R29, R191). -/
def GoesTo (i : Instr) (s t : State) : Prop :=
  (jumpOffset i = none → t.pc = s.pc + slotCount i) ∧
  ∀ off, jumpOffset i = some off → t.pc = s.pc + 1 ∨ t.pc = s.pc + 1 + off.toInt

/-- What an instruction that raises no fault does: it changes its written registers alone (R25), memory as `Bounded`
says, and either the outcome stays and `pc` moves on, or the outcome ends the run and `pc` stays. -/
structure Completes (i : Instr) (s t : State) : Prop where
  bounded : Bounded s t
  regs : ∀ r, r ∉ i.written → t.regs.get r = s.regs.get r
  flow : (t.outcome = s.outcome ∧ GoesTo i s t) ∨ (t.outcome ≠ .running ∧ t.pc = s.pc)

section Ends

variable {i : Instr} {w : List Reg} {rd : Params → List Reg} {s u : State}

/-- An instruction that is no jump goes on by its slots. -/
theorem Profile.goesTo_next {n : Int} {t : State} (h : Profile i w rd none n) (ht : t.pc = s.pc + n) :
    GoesTo i s t :=
  ⟨fun _ => by rw [ht, h.slots], fun off ho => by rw [h.offset] at ho; cases ho⟩

/-- A jump goes to the next slot or to its target. -/
theorem Profile.goesTo_jump {n : Int} {off : Off} {t : State} (h : Profile i w rd (some off) n)
    (ht : t.pc = s.pc + 1 ∨ t.pc = s.pc + 1 + off.toInt) : GoesTo i s t := by
  refine ⟨fun hn => ?_, fun o ho => ?_⟩
  · rw [h.offset] at hn; cases hn
  · rw [h.offset] at ho; cases ho; exact ht

/-- The end `pc <- pc + n` without a register written. -/
theorem Profile.completes_advance {n : Int} (h : Profile i w rd none n) (hu : OnlyMemory s u) :
    Completes i s (advance u n) where
  bounded := hu.bounded.trans (bounded_advance u n)
  regs r _ := by rw [advance_regs, hu.regs]
  flow := .inl ⟨hu.outcome, h.goesTo_next (by rw [advance_pc, hu.pc])⟩

/-- The end `x[dst] <- v; pc <- pc + n`. -/
theorem Profile.completes_writeReg {dst : Reg} {n : Int} (h : Profile i [dst] rd none n) (hu : OnlyMemory s u)
    (v : Word) : Completes i s (advance (writeReg u dst v) n) where
  bounded := hu.bounded.trans (bounded_writeReg_advance u dst v n)
  regs r hr := by
    rw [h.written, List.mem_singleton] at hr
    rw [advance_regs, writeReg_regs, get_set_ne hr, hu.regs]
  flow := .inl ⟨hu.outcome, h.goesTo_next (by rw [advance_pc, writeReg_pc, hu.pc])⟩

/-- The end of a call and of a legacy packet load: R0 written, R1 to R5 left `novalue` (R24, R307). -/
theorem Profile.completes_clobberArgs (h : Profile i [.r0, .r1, .r2, .r3, .r4, .r5] rd none 1)
    (hu : OnlyMemory s u) (v : Word) : Completes i s (advance (clobberArgs (writeReg u .r0 v)) 1) where
  bounded := hu.bounded.trans
    (((bounded_writeReg u .r0 v).trans (bounded_clobberArgs _)).trans (bounded_advance _ 1))
  regs r hr := by
    rw [h.written, List.mem_cons, not_or] at hr
    rw [advance_regs, clobberArgs_get, if_neg hr.2, writeReg_regs, get_set_ne hr.1, hu.regs]
  flow := .inl ⟨hu.outcome, h.goesTo_next (by rw [advance_pc, clobberArgs_pc, writeReg_pc, hu.pc])⟩

/-- The end of a conditional jump, taken or not (R191). -/
theorem Profile.completes_branch {n : Int} {off : Off} (h : Profile i w rd (some off) n) (taken : Bool) :
    Completes i s (branch s taken off) where
  bounded := bounded_branch s taken off
  regs r _ := by rw [branch_pc]
  flow := .inl ⟨by rw [branch_pc], h.goesTo_jump (by cases taken <;> simp [branch_pc])⟩

end Ends

/-- The end of `exit` and of an aborting load: the outcome ends the run and nothing else changes (R245, R334). -/
theorem completes_ended (i : Instr) (s : State) {o : RunOutcome} (ho : o ≠ .running) :
    Completes i s { s with outcome := o } where
  bounded := bounded_outcome s o
  regs _ _ := rfl
  flow := .inr ⟨ho, rfl⟩

/-- A legacy load whose offset is known aborts, or loads R0 and clobbers R1 to R5. -/
theorem Profile.completes_packetLoad {i : Instr} {rd : Params → List Reg} {s t : State} {z : Size} {x6 : Word}
    {o : Int} (hp : Profile i [.r0, .r1, .r2, .r3, .r4, .r5] rd none 1) (h : packetLoad z x6 o s = .ok t) :
    Completes i s t := by
  obtain ⟨_, -, ⟨-, rfl⟩ | ⟨bs, -, rfl⟩⟩ := packetLoad_eq_ok.1 h
  · exact completes_ended i s nofun
  · exact hp.completes_clobberArgs (.refl s) _

/-- A body that raises no fault ends in one of the ways above. -/
theorem BodyOf.completes {i : Instr} {body : State → Except Fault State} {s t : State} (hb : BodyOf i body)
    (h : body s = .ok t) : Completes i s t := by
  cases hb with
  | alu64 op dst b hp => obtain ⟨_, _, _, -, -, -, rfl⟩ := alu64_eq_ok.1 h; exact hp.completes_writeReg (.refl s) _
  | alu32 op dst b hp => obtain ⟨_, _, _, -, -, -, rfl⟩ := alu32_eq_ok.1 h; exact hp.completes_writeReg (.refl s) _
  | mov64 dst b hp => obtain ⟨_, -, rfl⟩ := mov64_eq_ok.1 h; exact hp.completes_writeReg (.refl s) _
  | mov32 dst b hp => obtain ⟨_, -, rfl⟩ := mov32_eq_ok.1 h; exact hp.completes_writeReg (.refl s) _
  | neg64 dst b _ hp => obtain ⟨_, rfl⟩ := neg64_eq_ok h; exact hp.completes_writeReg (.refl s) _
  | neg32 dst b _ hp => obtain ⟨_, rfl⟩ := neg32_eq_ok h; exact hp.completes_writeReg (.refl s) _
  | byteSwap e n dst hp => obtain ⟨_, -, rfl⟩ := byteSwap_eq_ok.1 h; exact hp.completes_writeReg (.refl s) _
  | loadImm64 dst v hp => cases h; exact hp.completes_writeReg (.refl s) _
  | jumpAlways off hp => cases h; exact hp.completes_branch true
  | jump64 c dst b off hp => obtain ⟨_, _, -, -, rfl⟩ := jump64_eq_ok.1 h; exact hp.completes_branch _
  | jump32 c dst b off hp => obtain ⟨_, _, -, -, rfl⟩ := jump32_eq_ok.1 h; exact hp.completes_branch _
  | callHelper n hp =>
    obtain ⟨_, v, u, -, hu, rfl⟩ := callHelper_eq_ok.1 h
    exact hp.completes_clobberArgs (onlyMemory_applyHelper hu) v
  | exitProgram hp => obtain ⟨_, -, rfl⟩ := exitProgram_eq_ok.1 h; exact completes_ended i s nofun
  | loadReg z dst src off hp =>
    obtain ⟨_, v, u, -, hu, rfl⟩ := loadReg_eq_ok.1 h
    exact hp.completes_writeReg (onlyMemory_memRead hu) v
  | storeImm z dst off imm hp =>
    obtain ⟨_, u, -, hu, rfl⟩ := storeImm_eq_ok.1 h
    exact hp.completes_advance (onlyMemory_memWrite hu)
  | storeReg z dst src off hp =>
    obtain ⟨_, _, u, -, -, hu, rfl⟩ := storeReg_eq_ok.1 h
    exact hp.completes_advance (onlyMemory_memWrite hu)
  | atomicPlain z f dst src off hp =>
    obtain ⟨_, u, hu, rfl⟩ := atomicPlain_eq_ok.1 h
    exact hp.completes_advance (onlyMemory_atomicAccess hu)
  | atomicFetch z f dst src off hp =>
    obtain ⟨old, u, hu, rfl⟩ := atomicFetch_eq_ok.1 h
    exact hp.completes_writeReg (onlyMemory_atomicAccess hu) old
  | atomicCompare z dst src off hp =>
    obtain ⟨_, _, _, old, u, -, -, -, hu, rfl⟩ := atomicCompare_eq_ok.1 h
    exact hp.completes_writeReg (onlyMemory_atomicUpdate hu) old
  | loadAbs z imm hp => obtain ⟨_, -, h⟩ := loadAbs_eq_ok.1 h; exact hp.completes_packetLoad h
  | loadInd z src imm hp => obtain ⟨_, _, -, -, h⟩ := loadInd_eq_ok.1 h; exact hp.completes_packetLoad h

/-- All that an instruction can do: raise a fault, which changes the outcome alone (R321), or complete. -/
theorem exec_cases {i : Instr} {s t : State} (h : exec i s = .next t) :
    (∃ f, t = raise s f) ∨ Completes i s t := by
  obtain ⟨body, hb, he⟩ := exists_bodyOf i
  rw [he] at h
  exact (attempt_cases h).imp_right fun ⟨_, ht⟩ => hb.completes ht

/-- All that a step can do: stay, once the run has ended without a fault; raise a fault; complete an instruction. -/
theorem step_cases {s t : State} (h : step s = .next t) :
    t = s ∨ (∃ f, t = raise s f) ∨ ∃ i, Completes i s t := by
  unfold step at h
  split at h
  · split at h
    · exact .inr ((exec_cases h).imp_right fun hc => ⟨_, hc⟩)
    · cases h; exact .inr (.inl ⟨_, rfl⟩)
  · cases h; exact .inl rfl
  · cases h; exact .inl rfl
  · cases h

theorem step_bounded {s t : State} (h : step s = .next t) : Bounded s t := by
  obtain rfl | ⟨f, rfl⟩ | ⟨i, hc⟩ := step_cases h
  · exact .refl t
  · exact bounded_raise s f
  · exact hc.bounded

/-- The invariant speaks of memory, regions and R10, and a bounded change keeps what it says of each. -/
theorem Bounded.inv {s t : State} (h : Bounded s t) (hs : s.Inv) : t.Inv where
  memWf := h.memWf hs.memWf
  cells := by rw [h.setting.regions]; exact h.cells hs.cells
  regions := by rw [h.setting.regions]; exact hs.regions
  framePtr := by rw [h.setting.framePtr]; exact hs.framePtr

/-- Settles O5: whatever a step does is bounded, and a bounded change keeps the invariant. -/
theorem invariantKept : Obligations.InvariantKept :=
  fun _ _ hs h => (step_bounded h).inv hs

/-- Settles O6. -/
theorem settingKept : Obligations.SettingKept :=
  fun _ _ h => (step_bounded h).setting

/-- Settles O25: a fault changes no register, and an instruction that completes changes its own alone. -/
theorem registerFrame : Obligations.RegisterFrame := by
  intro i s t r h hr
  obtain ⟨f, rfl⟩ | hc := exec_cases h
  · rw [raise_regs]
  · exact hc.regs r hr

/-- Settles O27: a fault ends the run and leaves `pc`; otherwise the run goes on along `GoesTo`, or ends with `pc` as
it was. -/
theorem pcRule : Obligations.PcRule := by
  intro i s t hrun h
  obtain ⟨f, rfl⟩ | hc := exec_cases h
  · exact ⟨nofun, nofun, fun _ => rfl⟩
  obtain ⟨ho, hnext, hjump⟩ | ⟨ho, hpc⟩ := hc.flow
  · exact ⟨fun _ => hnext, fun off _ => hjump off, fun hn => absurd (ho.trans hrun) hn⟩
  · exact ⟨fun hr => absurd hr ho, fun _ hr => absurd hr ho, fun _ => hpc⟩

/-! ### The order in which registers are read -/

/-- A bind of `Except` fails where its first part does, or its second part on what the first answered. -/
theorem bind_eq_error {ε α β : Type} {x : Except ε α} {k : α → Except ε β} {e : ε} :
    (x >>= k) = .error e ↔ x = .error e ∨ ∃ a, x = .ok a ∧ k a = .error e := by
  cases x <;> simp [bind, Except.bind]

/-- Registers cannot be read where the first holds `novalue`, or the others cannot be read (R323 step 3). -/
theorem readRegs_cons_eq_error {s : State} {r : Reg} {rs : List Reg} {f : Fault} :
    readRegs s (r :: rs) = .error f ↔
      (s.regs.get r = none ∧ f = .uninitRegister r) ∨
      (∃ v, s.regs.get r = some v) ∧ readRegs s rs = .error f := by
  cases hr : s.regs.get r with
  | none => rw [readRegs, bind_eq_error]; simp [readReg_of_none hr, eq_comm]
  | some v => rw [readRegs, bind_eq_error]; simp [bind_eq_error, readReg_of_some hr, pure, Except.pure]

section Reads

variable {s : State} {f : Fault} {α : Type} {r : Reg} {rs : List Reg}

/-- A body that reads `r` and then fails as the reading of `rs` does fails as the reading of `r :: rs` does. -/
theorem bind_readReg_eq_error {k : Word → Except Fault α} (h : readRegs s (r :: rs) = .error f)
    (hk : ∀ v, readRegs s rs = .error f → k v = .error f) : (readReg s r >>= k) = .error f := by
  obtain ⟨hr, rfl⟩ | ⟨⟨v, hr⟩, hrs⟩ := readRegs_cons_eq_error.1 h
  · rw [readReg_of_none hr]; rfl
  · rw [readReg_of_some hr]; exact hk v hrs

theorem bind_first32_eq_error {k : BitVec 32 → Except Fault α} (h : readRegs s (r :: rs) = .error f)
    (hk : ∀ x, readRegs s rs = .error f → k x = .error f) : (first32 s r >>= k) = .error f := by
  obtain ⟨hr, rfl⟩ | ⟨⟨v, hr⟩, hrs⟩ := readRegs_cons_eq_error.1 h
  · rw [first32_of_none hr]; rfl
  · rw [first32_of_some hr]; exact hk (low32 v) hrs

theorem bind_source64_eq_error {b : Source} {k : Word → Except Fault α} (h : readRegs s b.reads = .error f) :
    (source64 s b >>= k) = .error f := by
  cases b with
  | k imm => cases h
  | x r => exact bind_readReg_eq_error h nofun

theorem bind_source32_eq_error {b : Source} {k : BitVec 32 → Except Fault α} (h : readRegs s b.reads = .error f) :
    (source32 s b >>= k) = .error f := by
  cases b with
  | k imm => cases h
  | x r => exact bind_first32_eq_error h nofun

theorem atomicAccess_eq_error {z : Size} {dst src : Reg} {off : Off} {g : Word → Word → Word}
    (h : readRegs s [dst, src] = .error f) : atomicAccess z dst src off g s = .error f :=
  bind_readReg_eq_error h fun _ h => bind_readReg_eq_error h nofun

/-- `BPF_NEG` with `~B` reads the source; with `0 - A` it reads the destination, and has no register source (R117). -/
theorem neg64_eq_error {dst : Reg} {b : Source} (hb : s.params.negSemantics = .twosComplement → b.reads = [])
    (h : readRegs s (negReads dst b s.params) = .error f) : neg64 dst b s = .error f := by
  unfold neg64
  split
  · next hn => rw [negReads, if_pos hn] at h; exact bind_source64_eq_error h
  · next hn =>
    rw [negReads, if_neg (by simp [hn]), hb hn] at h
    exact bind_readReg_eq_error h nofun

theorem neg32_eq_error {dst : Reg} {b : Source} (hb : s.params.negSemantics = .twosComplement → b.reads = [])
    (h : readRegs s (negReads dst b s.params) = .error f) : neg32 dst b s = .error f := by
  unfold neg32
  split
  · next hn => rw [negReads, if_pos hn] at h; exact bind_source32_eq_error h
  · next hn =>
    rw [negReads, if_neg (by simp [hn]), hb hn] at h
    exact bind_first32_eq_error h nofun

/-- A well-formed `BPF_NEG` of two's complement has one of the forms that exist then (R91, R117). -/
theorem isExtraNegForm_of_wellFormed {p : Params} {i : Instr} (hw : i.WellFormed p)
    (hp : p.negSemantics = .twosComplement) : i.isExtraNegForm = false := by
  unfold Instr.WellFormed Instr.illFormed? at hw
  split_ifs at hw with _ _ hneg
  exact Bool.eq_false_of_not_eq_true fun hi => hneg ⟨hp, hi⟩

/-- The body of a well-formed instruction fails as the reading of its registers in their order does, before anything
else can fail (R323). -/
theorem BodyOf.eq_error_of_readRegs {i : Instr} {body : State → Except Fault State} (hb : BodyOf i body)
    (hw : i.WellFormed s.params) (h : readRegs s (i.reads s.params) = .error f) : body s = .error f := by
  cases hb with
  | alu64 op dst b hp =>
    rw [hp.reads] at h; exact bind_readReg_eq_error h fun _ h => bind_source64_eq_error h
  | alu32 op dst b hp =>
    rw [hp.reads] at h; exact bind_first32_eq_error h fun _ h => bind_source32_eq_error h
  | mov64 dst b hp => rw [hp.reads] at h; exact bind_source64_eq_error h
  | mov32 dst b hp => rw [hp.reads] at h; exact bind_source32_eq_error h
  | neg64 dst b hn hp =>
    rw [hp.reads] at h; exact neg64_eq_error (fun ht => hn (isExtraNegForm_of_wellFormed hw ht)) h
  | neg32 dst b hn hp =>
    rw [hp.reads] at h; exact neg32_eq_error (fun ht => hn (isExtraNegForm_of_wellFormed hw ht)) h
  | byteSwap e n dst hp => rw [hp.reads] at h; exact bind_readReg_eq_error h nofun
  | jump64 c dst b off hp =>
    rw [hp.reads] at h; exact bind_readReg_eq_error h fun _ h => bind_source64_eq_error h
  | jump32 c dst b off hp =>
    rw [hp.reads] at h; exact bind_first32_eq_error h fun _ h => bind_source32_eq_error h
  | jumpAlways off hp => rw [hp.reads] at h; cases h
  | callHelper n hp => rw [hp.reads] at h; cases h
  | loadImm64 dst v hp => rw [hp.reads] at h; cases h
  | exitProgram hp => rw [hp.reads] at h; exact bind_readReg_eq_error h nofun
  | loadReg z dst src off hp => rw [hp.reads] at h; exact bind_readReg_eq_error h nofun
  | storeImm z dst off imm hp => rw [hp.reads] at h; exact bind_readReg_eq_error h nofun
  | storeReg z dst src off hp =>
    rw [hp.reads] at h; exact bind_readReg_eq_error h fun _ h => bind_readReg_eq_error h nofun
  | atomicPlain z g dst src off hp =>
    rw [hp.reads] at h; exact bind_eq_error.2 (.inl (atomicAccess_eq_error h))
  | atomicFetch z g dst src off hp =>
    rw [hp.reads] at h; exact bind_eq_error.2 (.inl (atomicAccess_eq_error h))
  | atomicCompare z dst src off hp =>
    rw [hp.reads] at h
    exact bind_readReg_eq_error h fun _ h => bind_readReg_eq_error h fun _ h => bind_readReg_eq_error h nofun
  | loadAbs z imm hp => rw [hp.reads] at h; exact bind_readReg_eq_error h nofun
  | loadInd z src imm hp =>
    rw [hp.reads] at h; exact bind_readReg_eq_error h fun _ h => bind_readReg_eq_error h nofun

end Reads

/-- Settles O30: the registers an instruction reads, read in their order, fail with the first unreadable one
(`readRegs_of_none`), and the body fails as that reading does. -/
theorem readOrder : Obligations.ReadOrder := by
  intro i s pre r post hw hreads hpre hr
  obtain ⟨body, hb, he⟩ := exists_bodyOf i
  rw [he]
  exact attempt_error hw (hb.eq_error_of_readRegs hw (by rw [hreads]; exact readRegs_of_none hpre hr))

/-! ### Launch and reset -/

/-- A byte that memory holds is one of its cells. -/
theorem mem_of_readByte {m : Memory} {a : Nat} {b : Byte} (h : readByte m a = some b) : (a, b) ∈ m := by
  induction m with
  | nil => cases h
  | cons x m ih =>
    obtain ⟨c, v⟩ := x
    unfold readByte at h
    split at h
    · next hc => cases h; subst hc; exact List.mem_cons_self
    · exact List.mem_cons_of_mem _ (ih h)

theorem inRegion_iff {r : Region} {a : Nat} : inRegion r a = true ↔ r.base ≤ a ∧ a < r.base + r.length := by
  simp [inRegion]

theorem cellsInRegions_iff {rs : List Region} {m : Memory} :
    cellsInRegions rs m = true ↔ ∀ c ∈ m, ∃ r ∈ rs, inRegion r c.1 = true := by
  simp [cellsInRegions]

/-- One more region takes no byte out of the others. -/
theorem cellsInRegions_cons {r : Region} {rs : List Region} {m : Memory} (h : cellsInRegions rs m = true) :
    cellsInRegions (r :: rs) m = true := by
  rw [cellsInRegions_iff] at h ⊢
  intro c hc
  obtain ⟨q, hq, hin⟩ := h c hc
  exact ⟨q, List.mem_cons_of_mem r hq, hin⟩

/-- Memory that lies in other regions, disjoint from `r`, holds no byte of `r` (R43). -/
theorem readByte_eq_none_of_inRegion {r : Region} {rs : List Region} {m : Memory} {a : Nat}
    (hrs : regionsOk (r :: rs) = true) (hm : cellsInRegions rs m = true) (ha : inRegion r a = true) :
    readByte m a = none := by
  rw [Option.eq_none_iff_forall_ne_some]
  intro b hb
  obtain ⟨q, hq, hin⟩ := cellsInRegions_iff.1 hm (a, b) (mem_of_readByte hb)
  rw [inRegion_iff] at ha hin
  simp only [regionsOk, Bool.and_eq_true, decide_eq_true_eq, List.pairwise_cons] at hrs
  have hdisj := hrs.2.1 q hq
  omega

/-- What the spec asks of the host's choices (R6, R43, R44, R350). -/
theorem LaunchConfig.ok_iff {c : LaunchConfig} :
    c.ok = true ↔ 1 ≤ c.program.length ∧ regionsOk (stackRegion c.stackBase c.stackSize :: c.otherRegions) = true ∧
      c.stackSize % 8 = 0 ∧ c.content.wf = true ∧ cellsInRegions c.otherRegions c.content = true := by
  simp [LaunchConfig.ok, and_assoc]

/-- Settles O2: the contents lie in the other regions, so in the regions with the stack added. -/
theorem launchInvariant : Obligations.LaunchInvariant := by
  intro c hc
  obtain ⟨-, hregions, -, hwf, hcells⟩ := LaunchConfig.ok_iff.1 hc
  exact ⟨hwf, cellsInRegions_cons hcells, hregions, rfl⟩

/-- Settles O1: each field is as `launch` gives it, and no content of the other regions lies in the stack. -/
theorem launchState : Obligations.LaunchState := by
  intro c
  refine ⟨by simp [launch, launchRegs, Regs.get], rfl, rfl, rfl, rfl, rfl, rfl, rfl, rfl, rfl, rfl, rfl,
    ⟨stackRegion c.stackBase c.stackSize, List.mem_cons_self, rfl, rfl, rfl, rfl, rfl⟩, fun hc a h1 h2 => ?_⟩
  obtain ⟨-, hregions, -, -, hcells⟩ := LaunchConfig.ok_iff.1 hc
  exact readByte_eq_none_of_inRegion hregions hcells (inRegion_iff.2 ⟨h1, h2⟩)

/-- Settles O3: the fields of `State.reset` are those of the launch it is compared with, but for R0 to R9. -/
theorem resetState : Obligations.ResetState := by
  refine ⟨rfl, rfl, fun _ => rfl, rfl, fun r hr => ?_, rfl, rfl⟩
  cases r with
  | r10 => exact absurd rfl hr
  | _ => rfl

/-- Settles O4: nothing is written, and the stack is the only region. -/
theorem resetInvariant : Obligations.ResetInvariant where
  memWf := wf_reset
  cells := by decide
  regions := by decide
  framePtr := rfl

end Sys2Proof.Machine

/-! Memory (`20_memory.md`): which bytes a step may change, and what the two access primitives answer.

Each check of R41 and R42 gets an equation, so that `MemRead` and `MemWrite` are a case distinction on the region, the
alignment and the bytes. Bytes and values are tied to each other by `Shows` and `Stored`, in either host byte order. -/

namespace Sys2Proof.Machine

/-! ### Bytes that no step changes -/

/-- Settles O7: where a byte differs after a step, a writable region holds it (`Bounded.bytes`). -/
theorem readOnlyMemory : Obligations.ReadOnlyMemory := by
  intro s t a h hro
  by_contra hne
  obtain ⟨r, hr, hw, hin⟩ := (step_bounded h).bytes a hne
  exact Bool.false_ne_true ((hro r hr hin).symm.trans hw)

/-! ### The checks of an access -/

section Checks

variable {s : State} {r : Region} {addr : Word} {z : Size} {d : Access}

/-- Bytes that run past 2^64, or that no region holds whole, fail the check of the region in either direction. -/
theorem checkRegion_of_uncovered
    (h : 2 ^ 64 < addr.toNat + z.bytes ∨ ∀ r ∈ s.regions, ¬ covers r addr z) :
    checkRegion s addr z d = .error (.memFault addr z.bytes d) := by
  cases hc : checkRegion s addr z d with
  | error f => rw [checkRegion_eq_error hc]
  | ok r =>
    obtain ⟨hend, hfind, -⟩ := checkRegion_eq_ok.1 hc
    obtain ⟨hr, hbase, hlast⟩ := findRegion_some hfind
    obtain hpast | hnone := h
    · omega
    · exact absurd ⟨hbase, hlast⟩ (hnone r hr)

/-- The region that holds the bytes alone decides the check of the region (R43). -/
theorem checkRegion_of_inPlace (h : InPlace s r addr z) :
    checkRegion s addr z d = if permits r d then .ok r else .error (.memFault addr z.bytes d) := by
  obtain ⟨hok, hr, hbase, hlast⟩ := h
  obtain ⟨hfind, hend⟩ := findRegion_of_mem hok hr (size_pos z) hbase hlast
  rw [checkRegion, if_neg (Nat.not_lt.2 hend), hfind]

/-- Bytes that lie in a region end at 2^64 or below. -/
theorem InPlace.end_le (h : InPlace s r addr z) : addr.toNat + z.bytes ≤ 2 ^ 64 := by
  obtain ⟨hok, hr, hbase, hlast⟩ := h
  exact (findRegion_of_mem hok hr (size_pos z) hbase hlast).2

theorem isAligned_iff : isAligned addr z = true ↔ addr.toNat % z.bytes = 0 := by simp [isAligned]

theorem checkAligned_of_placed (h : Placed s addr z) : checkAligned s false addr z = .ok () :=
  checkAligned_eq_ok.2 (h.imp isAligned_iff.2 fun hp => ⟨rfl, hp⟩)

theorem checkAligned_of_not_placed (h : ¬ Placed s addr z) :
    checkAligned s false addr z = .error (.misaligned addr z.bytes) := by
  cases hc : checkAligned s false addr z with
  | error f => rw [checkAligned_eq_error hc]
  | ok u => exact absurd ((checkAligned_eq_ok.1 hc).imp isAligned_iff.1 fun hp => hp.2) h

/-- A write that answers has passed the check of alignment. -/
theorem placed_of_memWrite {t : State} {v : Word} (h : memWrite s addr z v = .ok t) : Placed s addr z := by
  obtain ⟨_, -, hal, -⟩ := memWrite_eq_ok.1 h
  exact (checkAligned_eq_ok.1 hal).imp isAligned_iff.1 fun hp => hp.2

end Checks

/-! ### The two primitives by their checks -/

section Primitives

variable {s : State} {r : Region} {addr v : Word} {z : Size}

theorem memRead_of_uncovered (h : 2 ^ 64 < addr.toNat + z.bytes ∨ ∀ r ∈ s.regions, ¬ covers r addr z) :
    memRead s addr z = .error (.memFault addr z.bytes .read) := by
  rw [memRead, checkRegion_of_uncovered h]; rfl

theorem memWrite_of_uncovered (h : 2 ^ 64 < addr.toNat + z.bytes ∨ ∀ r ∈ s.regions, ¬ covers r addr z) :
    memWrite s addr z v = .error (.memFault addr z.bytes .write) := by
  rw [memWrite, checkRegion_of_uncovered h]; rfl

theorem memRead_of_not_readable (h : InPlace s r addr z) (hr : r.readable = false) :
    memRead s addr z = .error (.memFault addr z.bytes .read) := by
  rw [memRead, checkRegion_of_inPlace h, permits, hr]; rfl

theorem memWrite_of_not_writable (h : InPlace s r addr z) (hw : r.writable = false) :
    memWrite s addr z v = .error (.memFault addr z.bytes .write) := by
  rw [memWrite, checkRegion_of_inPlace h, permits, hw]; rfl

theorem memRead_of_not_placed (h : InPlace s r addr z) (hr : r.readable = true) (hp : ¬ Placed s addr z) :
    memRead s addr z = .error (.misaligned addr z.bytes) := by
  rw [memRead, checkRegion_of_inPlace h, permits, hr, checkAligned_of_not_placed hp]; rfl

theorem memWrite_of_not_placed (h : InPlace s r addr z) (hw : r.writable = true) (hp : ¬ Placed s addr z) :
    memWrite s addr z v = .error (.misaligned addr z.bytes) := by
  rw [memWrite, checkRegion_of_inPlace h, permits, hw, checkAligned_of_not_placed hp]; rfl

/-- Past its checks, `MemRead` loads the bytes (R41 steps 4 and 5). -/
theorem memRead_of_placed (h : InPlace s r addr z) (hr : r.readable = true) (hp : Placed s addr z) :
    memRead s addr z = loadBytes s r addr z := by
  rw [memRead, checkRegion_of_inPlace h, permits, hr, checkAligned_of_placed hp]; rfl

/-- Past its checks, `MemWrite` stores the bytes, whatever they held (R42). -/
theorem memWrite_of_placed (h : InPlace s r addr z) (hw : r.writable = true) (hp : Placed s addr z) :
    memWrite s addr z v = .ok (storeBytes s addr z v) := by
  rw [memWrite, checkRegion_of_inPlace h, permits, hw, checkAligned_of_placed hp]; rfl

end Primitives

/-- Settles O54: the region is checked before the alignment, in either direction. -/
theorem accessChecks : Obligations.AccessChecks := by
  intro s addr z v
  refine ⟨fun h => ⟨memRead_of_uncovered h, memWrite_of_uncovered h⟩, fun hok r hr hcov => ?_⟩
  have hin : InPlace s r addr z := ⟨hok, hr, hcov⟩
  refine ⟨memRead_of_not_readable hin, memWrite_of_not_writable hin, fun hmod hfault => ?_⟩
  have hp : ¬ Placed s addr z := by simp [Placed, hmod, hfault]
  exact ⟨fun h => memRead_of_not_placed hin h hp, fun h => memWrite_of_not_placed hin h hp⟩

/-! ### Bytes and values in host byte order -/

/-- The bytes of a value in the order of rising addresses are those of `byteAt` (R42, R45). -/
theorem hostOrder_splitLE_getElem (e : Endian) (n : Nat) (v : Word) (i : Nat)
    (h : i < (hostOrder e (splitLE n v)).length) : (hostOrder e (splitLE n v))[i] = byteAt e n v i := by
  cases e with
  | little => exact splitLE_getElem n v i h
  | big => simp [hostOrder, byteAt, splitLE_getElem]

theorem storedBytes_getElem (s : State) (z : Size) (v : Word) (i : Nat) (h : i < (storedBytes s z v).length) :
    (storedBytes s z v)[i] = byteAt s.params.hostEndian z.bytes v i :=
  hostOrder_splitLE_getElem _ _ _ i h

/-- Bytes put in order of rising addresses and joined again give the low part of the value (R41 step 5). -/
theorem joinLE_hostOrder_splitLE (e : Endian) (n : Nat) (v : Word) :
    joinLE (hostOrder e (hostOrder e (splitLE n v))) = lowBytes n v := by
  rw [hostOrder_hostOrder, joinLE_splitLE]

/-- The low `n` bytes as the statements write them: the value modulo `2^(8n)`. -/
theorem lowBytes_eq_ofNat {n : Nat} (v : Word) (h : n ≤ 8) :
    lowBytes n v = BitVec.ofNat 64 (v.toNat % 2 ^ (8 * n)) := by
  apply BitVec.eq_of_toNat_eq
  rw [lowBytes_toNat n v h, show 256 = 2 ^ 8 from rfl, ← pow_mul, BitVec.toNat_ofNat,
    Nat.mod_eq_of_lt (Nat.lt_of_le_of_lt (Nat.mod_le _ _) v.isLt)]

theorem lowBytes_toNat_lt {n : Nat} (v : Word) (h : n ≤ 8) : (lowBytes n v).toNat < 2 ^ (8 * n) := by
  rw [lowBytes_toNat n v h, pow_mul]
  exact Nat.mod_lt _ (by positivity)

theorem lowBytes_of_lt {n : Nat} {v : Word} (hn : n ≤ 8) (hv : v.toNat < 2 ^ (8 * n)) : lowBytes n v = v := by
  rw [lowBytes_eq_ofNat v hn, Nat.mod_eq_of_lt hv, BitVec.ofNat_toNat, BitVec.setWidth_eq]

/-- The `n` bytes of a value are those of its low part. -/
theorem byteAt_lowBytes {e : Endian} {n i : Nat} (v : Word) (hn : n ≤ 8) (hi : i < n) :
    byteAt e n (lowBytes n v) i = byteAt e n v i := by
  rw [← hostOrder_splitLE_getElem e n _ i (by simpa), ← hostOrder_splitLE_getElem e n v i (by simpa)]
  simp only [splitLE_lowBytes n v hn]

/-- Any `n` bytes, up to eight, are those of a value below `2^(8n)`, in either byte order. -/
theorem exists_word_of_bytes (e : Endian) {n : Nat} (hn : n ≤ 8) (f : Nat → Byte) :
    ∃ v : Word, v.toNat < 2 ^ (8 * n) ∧ ∀ i < n, byteAt e n v i = f i := by
  have hl : (hostOrder e ((List.range n).map f)).length = n := by simp
  have hsplit := splitLE_joinLE (hostOrder e ((List.range n).map f)) (by omega)
  rw [hl] at hsplit
  refine ⟨joinLE (hostOrder e ((List.range n).map f)), ?_, fun i hi => ?_⟩
  · rw [← hsplit]; exact lowBytes_toNat_lt _ hn
  · rw [← hostOrder_splitLE_getElem e n _ i (by simpa)]
    simp [hsplit]

/-! ### What is read -/

section Reads

variable {s : State} {r : Region} {addr v : Word} {z : Size}

theorem seenByte_of_not_shared (hsh : r.shared = false) (a : Nat) : seenByte s r a = readByte s.mem a := by
  simp [seenByte, hsh]

theorem seenByte_of_shared (hsh : r.shared = true) (a : Nat) :
    seenByte s r a = some (Config.oracle s.oracleTick a) := by
  simp [seenByte, hsh]

theorem tickAfter_of_not_shared (hsh : r.shared = false) : tickAfter s r = s.oracleTick := by simp [tickAfter, hsh]

theorem tickAfter_of_shared (hsh : r.shared = true) : tickAfter s r = s.oracleTick + 1 := by simp [tickAfter, hsh]

/-- The bytes seen are loaded as the value they show, and only a shared read is counted (R41, R52). -/
theorem loadBytes_of_shows (h : Shows s r addr z v) :
    loadBytes s r addr z = .ok (v, { s with oracleTick := tickAfter s r }) := by
  obtain ⟨hlt, hbytes⟩ := h
  have hv : joinLE (hostOrder s.params.hostEndian (storedBytes s z v)) = v := by
    rw [storedBytes, joinLE_hostOrder_splitLE, lowBytes_of_lt (size_le_eight z) hlt]
  rw [loadBytes_eq_ok]
  cases hsh : r.shared with
  | true =>
    simp only [seenByte_of_shared hsh, Option.some.injEq] at hbytes
    have hread : oracleBytes s.oracleTick addr.toNat z.bytes = storedBytes s z v :=
      List.ext_getElem (by simp) fun i hi _ => by
        rw [oracleBytes_getElem, storedBytes_getElem, hbytes i (by simpa using hi)]
    exact .inl ⟨rfl, by rw [tickAfter_of_shared hsh], by rw [hread, hv]⟩
  | false =>
    simp only [seenByte_of_not_shared hsh] at hbytes
    have hread := readBytes_eq_some s.mem addr.toNat (storedBytes s z v) fun i hi => by
      rw [storedBytes_getElem, hbytes i (by simpa using hi)]
    rw [storedBytes_length] at hread
    exact .inr ⟨rfl, by rw [tickAfter_of_not_shared hsh], _, hread, hv.symm⟩

/-- A `nobyte` among the bytes of a region that is not shared stops the load (R58). -/
theorem loadBytes_of_nobyte (hsh : r.shared = false) (h : ∃ i < z.bytes, readByte s.mem (addr.toNat + i) = none) :
    loadBytes s r addr z = .error (.uninitMemory addr z.bytes) := by
  obtain ⟨i, hi, hnone⟩ := h
  cases hl : loadBytes s r addr z with
  | error f => rw [loadBytes_eq_error hl]
  | ok x =>
    obtain ⟨hsh', -⟩ | ⟨-, -, bs, hread, -⟩ := loadBytes_eq_ok.1 hl
    · simp [hsh] at hsh'
    · have hsome := (readBytes_isSome s.mem addr.toNat z.bytes).1 (by rw [hread]; rfl) i hi
      simp [hnone] at hsome

/-- Bytes of which none is `nobyte` show a value. -/
theorem exists_shows (h : ∀ i < z.bytes, seenByte s r (addr.toNat + i) ≠ none) : ∃ v, Shows s r addr z v := by
  obtain ⟨v, hlt, hv⟩ := exists_word_of_bytes s.params.hostEndian (size_le_eight z)
    fun i => (seenByte s r (addr.toNat + i)).getD 0
  refine ⟨v, hlt, fun i hi => ?_⟩
  obtain ⟨b, hb⟩ := Option.ne_none_iff_exists'.1 (h i hi)
  rw [hv i hi, hb, Option.getD_some]

/-- `MemRead` in a readable region that is not shared answers the value its bytes show, and changes nothing. -/
theorem memRead_of_shows (h : InPlace s r addr z) (hr : r.readable = true) (hsh : r.shared = false)
    (hp : Placed s addr z) (hv : Shows s r addr z v) : memRead s addr z = .ok (v, s) := by
  rw [memRead_of_placed h hr hp, loadBytes_of_shows hv, tickAfter_of_not_shared hsh]

end Reads

/-- Settles O55: past the checks the answer is the value that the bytes seen show, and there is one where no byte is
`nobyte`. -/
theorem readValue : Obligations.ReadValue := by
  intro s addr z r hok hr hcov hread hp
  have hload := memRead_of_placed ⟨hok, hr, hcov⟩ hread hp
  refine ⟨fun hsh => ⟨fun hnone => ?nobyte, fun hsome => ?memory⟩, fun hsh => ?shared⟩
  case nobyte => rw [hload, loadBytes_of_nobyte hsh hnone]
  case memory =>
    simp only [← seenByte_of_not_shared hsh] at hsome ⊢
    obtain ⟨v, hv⟩ := exists_shows hsome
    exact ⟨v, memRead_of_shows ⟨hok, hr, hcov⟩ hread hsh hp hv, hv⟩
  case shared =>
    obtain ⟨v, hv⟩ := exists_shows (s := s) (r := r) (addr := addr) (z := z) fun i _ => by
      simp [seenByte_of_shared hsh]
    refine ⟨v, ?_, hv.1, fun i hi => ?_⟩
    · rw [hload, loadBytes_of_shows hv, tickAfter_of_shared hsh]
    · exact Option.some.inj ((seenByte_of_shared hsh _).symm.trans (hv.2 i hi))

/-! ### What is written -/

/-- A store puts the bytes of the value at the address and leaves every other byte (R42). -/
theorem stored_storeBytes (s : State) (addr : Word) (z : Size) (v : Word) :
    Stored s (storeBytes s addr z v).mem addr z v := by
  refine ⟨fun i hi => ?_, fun a ha => ?_⟩
  · rw [storeBytes_mem, readByte_writeBytes_inside _ _ _ i (by simpa using hi), storedBytes_getElem]
  · rw [storeBytes_mem, readByte_writeBytes_outside _ _ _ _ (by simpa using ha)]

/-- Settles O56. -/
theorem writeEffect : Obligations.WriteEffect := by
  intro s addr z r v hok hr hcov hw hp
  exact ⟨_, memWrite_of_placed ⟨hok, hr, hcov⟩ hw hp, stored_storeBytes s addr z v⟩

/-- A write that answers is the store. -/
theorem eq_storeBytes_of_memWrite {s t : State} {addr v : Word} {z : Size} (h : memWrite s addr z v = .ok t) :
    t = storeBytes s addr z v := by
  obtain ⟨_, -, -, ht⟩ := memWrite_eq_ok.1 h
  exact ht

/-! ### Reads of bytes just written -/

/-- The number of bits of an `n`-byte value below those of the `m` bytes at its offset `k` (R46). -/
def bitsBelow (e : Endian) (n m k : Nat) : Nat :=
  match e with
  | .little => 8 * k
  | .big => 8 * (n - m - k)

/-- A whole value has no bits below it. -/
theorem bitsBelow_self (e : Endian) (n : Nat) : bitsBelow e n n 0 = 0 := by cases e <;> simp [bitsBelow]

/-- The `m` bytes at offset `k` of a value are the bytes of the value shifted right by the bits below them. -/
theorem byteAt_shiftRight_bitsBelow {e : Endian} {n m k i : Nat} (v : Word) (hk : k + m ≤ n) (hi : i < m) :
    byteAt e m (v >>> bitsBelow e n m k) i = byteAt e n v (k + i) := by
  cases e with
  | little =>
    simp only [byteAt, bitsBelow, BitVec.toNat_ushiftRight, Nat.shiftRight_eq_div_pow, Nat.div_div_eq_div_mul,
      ← pow_add, ← Nat.mul_add]
  | big =>
    have hweight : n - m - k + (m - 1 - i) = n - 1 - (k + i) := by omega
    simp only [byteAt, bitsBelow, BitVec.toNat_ushiftRight, Nat.shiftRight_eq_div_pow, Nat.div_div_eq_div_mul,
      ← pow_add, ← Nat.mul_add, hweight]

/-- The address of a byte inside an access does not wrap around. -/
theorem InPlace.toNat_add {s : State} {r : Region} {a : Word} {z : Size} {k : Nat} (h : InPlace s r a z)
    (hk : k < z.bytes) : (a + BitVec.ofNat 64 k).toNat = a.toNat + k := by
  have hend := h.end_le
  rw [BitVec.toNat_add, BitVec.toNat_ofNat, Nat.mod_eq_of_lt (a := k) (by omega), Nat.mod_eq_of_lt (by omega)]

/-- After a write, a read of `y` bytes at the offset `k` inside the bytes written answers those bits of the value
(R46, R53). -/
theorem memRead_part_of_memWrite {s t : State} {r : Region} {a v : Word} {z y : Size} {k : Nat}
    (hin : InPlace s r a z) (hr : r.readable = true) (hsh : r.shared = false) (hw : memWrite s a z v = .ok t)
    (hk : k + y.bytes ≤ z.bytes) (hp : Placed s (a + BitVec.ofNat 64 k) y) :
    memRead t (a + BitVec.ofNat 64 k) y = .ok (BitVec.ofNat 64
      (v.toNat / 2 ^ bitsBelow s.params.hostEndian z.bytes y.bytes k % 2 ^ (8 * y.bytes)), t) := by
  have haddr := hin.toNat_add (k := k) (by have := size_pos y; omega)
  obtain ⟨hok, hmem, hbase, hlast⟩ := hin
  obtain rfl := eq_storeBytes_of_memWrite hw
  have hpart : InPlace (storeBytes s a z v) r (a + BitVec.ofNat 64 k) y := ⟨hok, hmem, by omega, by omega⟩
  rw [← Nat.shiftRight_eq_div_pow, ← BitVec.toNat_ushiftRight, ← lowBytes_eq_ofNat _ (size_le_eight y)]
  refine memRead_of_shows hpart hr hsh hp ⟨lowBytes_toNat_lt _ (size_le_eight y), fun i hi => ?_⟩
  rw [seenByte_of_not_shared hsh, haddr, Nat.add_assoc, (stored_storeBytes s a z v).1 (k + i) (by omega),
    byteAt_lowBytes _ (size_le_eight y) hi, storeBytes_params, byteAt_shiftRight_bitsBelow v hk hi]

/-- After an 8-byte write at a multiple of 8, the `n` bytes at a multiple `k` of `n` read as the bits of the value from
bit `d` on (R46). -/
theorem memRead_part_of_memWrite_dw {s t : State} {r : Region} {a v : Word} (hin : InPlace s r a .dw)
    (hr : r.readable = true) (hsh : r.shared = false) (ha : a.toNat % 8 = 0) (hw : memWrite s a .dw v = .ok t)
    (y : Size) (n k d : Nat) (hn : y.bytes = n) (hk : k + n ≤ 8) (hdvd : k % n = 0)
    (hd : bitsBelow s.params.hostEndian Size.dw.bytes n k = d) :
    memRead t (a + BitVec.ofNat 64 k) y = .ok (BitVec.ofNat 64 (v.toNat / 2 ^ d % 2 ^ (8 * n)), t) := by
  subst hn hd
  have hk8 : k < Size.dw.bytes := Nat.lt_of_lt_of_le (Nat.lt_add_of_pos_right (size_pos y)) hk
  have hdvd8 : y.bytes ∣ 8 := by cases y <;> decide
  have hp : Placed s (a + BitVec.ofNat 64 k) y := by
    left
    rw [hin.toNat_add hk8]
    exact Nat.mod_eq_zero_of_dvd
      (Nat.dvd_add (hdvd8.trans (Nat.dvd_of_mod_eq_zero ha)) (Nat.dvd_of_mod_eq_zero hdvd))
  exact memRead_part_of_memWrite hin hr hsh hw hk hp

/-- Settles O58: each width reads its own bits, counted from the low end of the value on a little-endian host and from
its high end on a big-endian one (`bitsBelow`). -/
theorem mixedWidth : Obligations.MixedWidth := by
  intro s t a v r hok hr hcov hread hsh ha hw
  have part := memRead_part_of_memWrite_dw ⟨hok, hr, hcov⟩ hread hsh ha hw
  refine ⟨fun he => ?little, fun he => ?big⟩
  case little =>
    simp only [he, bitsBelow] at part
    exact ⟨fun i hi => part .b 1 i (8 * i) rfl (by omega) (by omega) (by omega),
      fun i hi => part .h 2 (2 * i) (16 * i) rfl (by omega) (by omega) (by omega),
      fun i hi => part .w 4 (4 * i) (32 * i) rfl (by omega) (by omega) (by omega)⟩
  case big =>
    simp only [he, bitsBelow, show Size.dw.bytes = 8 from rfl] at part
    exact ⟨fun i hi => part .b 1 i (56 - 8 * i) rfl (by omega) (by omega) (by omega),
      fun i hi => part .h 2 (2 * i) (48 - 16 * i) rfl (by omega) (by omega) (by omega),
      fun i hi => part .w 4 (4 * i) (32 - 32 * i) rfl (by omega) (by omega) (by omega)⟩

/-! ### Reads of other bytes -/

section Others

variable {s : State} {q : Region} {a b v : Word} {z y : Size}

/-- A store leaves what is loaded from other bytes of a region that is not shared. -/
theorem loadBytes_storeBytes_of_disjoint (hsh : q.shared = false)
    (hdisj : b.toNat + y.bytes ≤ a.toNat ∨ a.toNat + z.bytes ≤ b.toNat) :
    loadBytes (storeBytes s a z v) q b y = (loadBytes s q b y).map fun x => (x.1, storeBytes s a z v) := by
  have hbytes : readBytes (storeBytes s a z v).mem b.toNat y.bytes = readBytes s.mem b.toNat y.bytes :=
    readBytes_congr fun i hi => (stored_storeBytes s a z v).2 _ (by omega)
  rw [loadBytes, loadBytes, hbytes, hsh]
  cases readBytes s.mem b.toNat y.bytes with
  | none => rfl
  | some bs => rfl

/-- A store leaves what `MemRead` answers for other bytes of a region that is not shared, faults included (R51). -/
theorem memRead_storeBytes_of_disjoint (hin : InPlace s q b y) (hsh : q.shared = false)
    (hdisj : b.toNat + y.bytes ≤ a.toNat ∨ a.toNat + z.bytes ≤ b.toNat) :
    memRead (storeBytes s a z v) b y = (memRead s b y).map fun x => (x.1, storeBytes s a z v) := by
  have hin' : InPlace (storeBytes s a z v) q b y := hin
  cases hr : q.readable with
  | false => rw [memRead_of_not_readable hin hr, memRead_of_not_readable hin' hr]; rfl
  | true =>
    by_cases hp : Placed s b y
    · have hp' : Placed (storeBytes s a z v) b y := hp
      rw [memRead_of_placed hin hr hp, memRead_of_placed hin' hr hp', loadBytes_storeBytes_of_disjoint hsh hdisj]
    · have hp' : ¬ Placed (storeBytes s a z v) b y := hp
      rw [memRead_of_not_placed hin hr hp, memRead_of_not_placed hin' hr hp']; rfl

end Others

/-- Settles O59: the bytes written are the part of the value at offset 0, and other bytes read as before the store. -/
theorem readAfterWrite : Obligations.ReadAfterWrite := by
  intro s t a v z r hok hr hcov hread hsh hw
  refine ⟨?same, fun b y q hq hcovq hshq hdisj => ?others⟩
  case same =>
    have h := memRead_part_of_memWrite (y := z) (k := 0) ⟨hok, hr, hcov⟩ hread hsh hw (by omega)
      (by simpa using placed_of_memWrite hw)
    simpa [bitsBelow_self] using h
  case others =>
    obtain rfl := eq_storeBytes_of_memWrite hw
    rw [memRead_storeBytes_of_disjoint ⟨hok, hq, hcovq⟩ hshq hdisj]
    exact ⟨fun w h => by rw [h]; rfl, fun f h => by rw [h]; rfl⟩

end Sys2Proof.Machine

/-! Encoding (`30_encoding.md`): the decoder and the encoder are inverse to each other, what the decoder refuses, and
the walk over the slots of a program.

The 144 instructions share the 15 formats of R86. `Form.Makes` says once which fields of a slot make which instruction
of a format; the decoder and the encoder are each tied to it by one lemma. -/

namespace Sys2Proof

/-! ### What a format makes of the fields of a slot -/

/-- A slot of this format with these fields, followed by `second`, is this instruction, well-formed or not (R86): the
fields a format does not use are zero, register fields hold numbers of registers, and `imm` selects a byte swap or an
atomic operation (R88). The wide instruction has a case for each layout of its immediate (R300). -/
inductive Form.Makes (p : Params) : Form → BitVec 4 → BitVec 4 → Off → Imm → Option Word → Instr → Prop
  | aluK (mk : Reg → Imm → Instr) (d : Reg) (m : Imm) (second : Option Word) :
      Makes p (.aluK mk) d.field 0 0 m second (mk d m)
  | aluX (mk : Reg → Reg → Instr) (d s : Reg) (second : Option Word) :
      Makes p (.aluX mk) d.field s.field 0 0 second (mk d s)
  | byteSwap (pick : Imm → Option (Reg → Instr)) (mk : Reg → Instr) (d : Reg) (m : Imm) (second : Option Word) :
      pick m = some mk → d ≠ .r10 → Makes p (.byteSwap pick) d.field 0 0 m second (mk d)
  | ja (mk : Off → Instr) (o : Off) (second : Option Word) : Makes p (.ja mk) 0 0 o 0 second (mk o)
  | jccK (mk : Reg → Imm → Off → Instr) (d : Reg) (m : Imm) (o : Off) (second : Option Word) :
      Makes p (.jccK mk) d.field 0 o m second (mk d m o)
  | jccX (mk : Reg → Reg → Off → Instr) (d s : Reg) (o : Off) (second : Option Word) :
      Makes p (.jccX mk) d.field s.field o 0 second (mk d s o)
  | call (mk : Imm → Instr) (m : Imm) (second : Option Word) : Makes p (.call mk) 0 0 0 m second (mk m)
  | exit (i : Instr) (second : Option Word) : Makes p (.exit i) 0 0 0 0 second i
  | ldx (mk : Reg → Reg → Off → Instr) (d s : Reg) (o : Off) (second : Option Word) :
      Makes p (.ldx mk) d.field s.field o 0 second (mk d s o)
  | st (mk : Reg → Off → Imm → Instr) (d : Reg) (o : Off) (m : Imm) (second : Option Word) :
      Makes p (.st mk) d.field 0 o m second (mk d o m)
  | stx (mk : Reg → Reg → Off → Instr) (d s : Reg) (o : Off) (second : Option Word) :
      Makes p (.stx mk) d.field s.field o 0 second (mk d s o)
  | atomic (pick : Imm → Option (Reg → Reg → Off → Instr)) (mk : Reg → Reg → Off → Instr) (d s : Reg) (o : Off)
      (m : Imm) (second : Option Word) :
      pick m = some mk → Makes p (.atomic pick) d.field s.field o m second (mk d s o)
  | lddwLiteral (mk : Reg → Word → Instr) (d : Reg) (v : Word) :
      p.lddwLayout = .sourceLiteral → d ≠ .r10 → Makes p (.lddw mk) d.field 0 0 0 (some v) (mk d v)
  | lddwSplit (mk : Reg → Word → Instr) (d : Reg) (m : Imm) (v : Word) :
      p.lddwLayout = .splitHalves → d ≠ .r10 → v.extractLsb' 0 32 = 0#32 →
      Makes p (.lddw mk) d.field 0 0 m (some v) (mk d (immField v ++ m))
  | ldAbs (mk : Imm → Instr) (m : Imm) (second : Option Word) : Makes p (.ldAbs mk) 0 0 0 m second (mk m)
  | ldInd (mk : Reg → Imm → Instr) (s : Reg) (m : Imm) (second : Option Word) :
      Makes p (.ldInd mk) 0 s.field 0 m second (mk s m)

section Formats

variable {p : Params} {f : Form} {second : Option Word} {i : Instr}

/-- What the decoder answers for a slot is what the slot's format makes of its fields. -/
theorem makes_of_decode {w : Word} (hf : formOf (opcodeField w) = some f) (h : decode p w second = .ok i) :
    f.Makes p (dstField w) (srcField w) (offField w) (immField w) second i := by
  cases f with
  | aluK => obtain ⟨d, hd, hs, ho, -, rfl⟩ := (decode_aluK_iff hf).1 h; rw [hd, hs, ho]; exact .aluK ..
  | aluX => obtain ⟨d, r, hd, hs, ho, hm, -, rfl⟩ := (decode_aluX_iff hf).1 h; rw [hd, hs, ho, hm]; exact .aluX ..
  | byteSwap =>
    obtain ⟨d, mk, hd, hn, hs, ho, hk, -, rfl⟩ := (decode_byteSwap_iff hf).1 h
    rw [hd, hs, ho]; exact .byteSwap _ _ _ _ _ hk hn
  | ja => obtain ⟨hd, hs, hm, -, rfl⟩ := (decode_ja_iff hf).1 h; rw [hd, hs, hm]; exact .ja ..
  | jccK => obtain ⟨d, hd, hs, -, rfl⟩ := (decode_jccK_iff hf).1 h; rw [hd, hs]; exact .jccK ..
  | jccX => obtain ⟨d, r, hd, hs, hm, -, rfl⟩ := (decode_jccX_iff hf).1 h; rw [hd, hs, hm]; exact .jccX ..
  | call => obtain ⟨hd, hs, ho, -, rfl⟩ := (decode_call_iff hf).1 h; rw [hd, hs, ho]; exact .call ..
  | exit => obtain ⟨hd, hs, ho, hm, -, rfl⟩ := (decode_exit_iff hf).1 h; rw [hd, hs, ho, hm]; exact .exit ..
  | ldx => obtain ⟨d, r, hd, hs, hm, -, rfl⟩ := (decode_ldx_iff hf).1 h; rw [hd, hs, hm]; exact .ldx ..
  | st => obtain ⟨d, hd, hs, -, rfl⟩ := (decode_st_iff hf).1 h; rw [hd, hs]; exact .st ..
  | stx => obtain ⟨d, r, hd, hs, hm, -, rfl⟩ := (decode_stx_iff hf).1 h; rw [hd, hs, hm]; exact .stx ..
  | atomic =>
    obtain ⟨d, r, mk, hd, hs, hk, -, rfl⟩ := (decode_atomic_iff hf).1 h
    rw [hd, hs]; exact .atomic _ _ _ _ _ _ _ hk
  | lddw =>
    obtain ⟨d, v, hd, hn, hs, ho, rfl, ⟨hl, hm, -, rfl⟩ | ⟨hl, hz, -, rfl⟩⟩ := (decode_lddw_iff hf).1 h
    · rw [hd, hs, ho, hm]; exact .lddwLiteral _ _ _ hl hn
    · rw [hd, hs, ho]; exact .lddwSplit _ _ _ _ hl hn hz
  | ldAbs => obtain ⟨hd, hs, ho, -, rfl⟩ := (decode_ldAbs_iff hf).1 h; rw [hd, hs, ho]; exact .ldAbs ..
  | ldInd => obtain ⟨r, hd, hs, ho, -, rfl⟩ := (decode_ldInd_iff hf).1 h; rw [hd, hs, ho]; exact .ldInd ..

/-- A packed slot whose format makes a well-formed instruction of its fields decodes to that instruction. -/
theorem decode_packSlot {op : BitVec 8} {d s : BitVec 4} {o : Off} {m : Imm} (hf : formOf op = some f)
    (hm : f.Makes p d s o m second i) (hw : i.WellFormed p) : decode p (packSlot op d s o m) second = .ok i := by
  have hf' : formOf (opcodeField (packSlot op d s o m)) = some f := by simpa using hf
  cases hm with
  | aluK mk d m => exact (decode_aluK_iff hf').2 ⟨d, by simpa using hw⟩
  | aluX mk d s => exact (decode_aluX_iff hf').2 ⟨d, s, by simpa using hw⟩
  | byteSwap pick mk d m _ hk hn => exact (decode_byteSwap_iff hf').2 ⟨d, mk, by simpa using ⟨hn, hk, hw⟩⟩
  | ja mk o => exact (decode_ja_iff hf').2 (by simpa using hw)
  | jccK mk d m o => exact (decode_jccK_iff hf').2 ⟨d, by simpa using hw⟩
  | jccX mk d s o => exact (decode_jccX_iff hf').2 ⟨d, s, by simpa using hw⟩
  | call mk m => exact (decode_call_iff hf').2 (by simpa using hw)
  | exit => exact (decode_exit_iff hf').2 (by simpa using hw)
  | ldx mk d s o => exact (decode_ldx_iff hf').2 ⟨d, s, by simpa using hw⟩
  | st mk d o m => exact (decode_st_iff hf').2 ⟨d, by simpa using hw⟩
  | stx mk d s o => exact (decode_stx_iff hf').2 ⟨d, s, by simpa using hw⟩
  | atomic pick mk d s o m _ hk => exact (decode_atomic_iff hf').2 ⟨d, s, mk, by simpa using ⟨hk, hw⟩⟩
  | lddwLiteral mk d v hl hn => exact (decode_lddw_iff hf').2 ⟨d, v, by simpa [hl] using ⟨hn, hw⟩⟩
  | lddwSplit mk d m v hl hn hz => exact (decode_lddw_iff hf').2 ⟨d, v, by simpa [hl] using ⟨hn, hz, hw⟩⟩
  | ldAbs mk m => exact (decode_ldAbs_iff hf').2 (by simpa using hw)
  | ldInd mk s m => exact (decode_ldInd_iff hf').2 ⟨s, by simpa using hw⟩

end Formats

/-! ### The second slot of a wide instruction in split halves -/

/-- A slot of which only `imm` is not zero is `imm` over 32 zero bits (R71). -/
theorem packSlot_zero (m : Imm) : packSlot 0 0 0 0 m = m ++ 0#32 := rfl

theorem extractLsb'_packSlot_zero (m : Imm) : (packSlot 0 0 0 0 m).extractLsb' 0 32 = 0#32 := by
  rw [packSlot_zero]; exact BitVec.extractLsb'_append_eq_right

/-- A slot whose lower half is zero is its `imm` alone. -/
theorem packSlot_zero_immField {v : Word} (h : v.extractLsb' 0 32 = 0#32) : packSlot 0 0 0 0 (immField v) = v := by
  rw [packSlot_zero, ← h]; exact BitVec.extractLsb'_append_extractLsb'

/-! ### The instructions that `imm` selects -/

section Selected

variable {m : Imm}

/-- One comparison of `imm` with a constant: it selects here, or what follows does. -/
theorem selected_or {α : Type} {c : Imm} {a mk : α} {rest : Option α} {P : Prop}
    (h : (if m = c then some a else rest) = some mk) (hr : rest = some mk → P) : (m = c ∧ mk = a) ∨ P := by
  split at h
  · next hm => exact .inl ⟨hm, (Option.some.inj h).symm⟩
  · exact .inr (hr h)

theorem selected_last {α : Type} {c : Imm} {a mk : α} (h : (if m = c then some a else none) = some mk) :
    m = c ∧ mk = a :=
  (selected_or (P := False) h nofun).resolve_right id

theorem pickLe_eq_some {mk : Reg → Instr} (h : pickLe m = some mk) :
    (m = 0x10#32 ∧ mk = .le16) ∨ (m = 0x20#32 ∧ mk = .le32) ∨ (m = 0x40#32 ∧ mk = .le64) := by
  iterate 2 refine selected_or h fun h => ?_
  exact selected_last h

theorem pickBe_eq_some {mk : Reg → Instr} (h : pickBe m = some mk) :
    (m = 0x10#32 ∧ mk = .be16) ∨ (m = 0x20#32 ∧ mk = .be32) ∨ (m = 0x40#32 ∧ mk = .be64) := by
  iterate 2 refine selected_or h fun h => ?_
  exact selected_last h

theorem pickAtomic32_eq_some {mk : Reg → Reg → Off → Instr} (h : pickAtomic32 m = some mk) :
    (m = 0x00#32 ∧ mk = .atomicAdd32) ∨ (m = 0x01#32 ∧ mk = .atomicFetchAdd32) ∨
    (m = 0x40#32 ∧ mk = .atomicOr32) ∨ (m = 0x41#32 ∧ mk = .atomicFetchOr32) ∨
    (m = 0x50#32 ∧ mk = .atomicAnd32) ∨ (m = 0x51#32 ∧ mk = .atomicFetchAnd32) ∨
    (m = 0xa0#32 ∧ mk = .atomicXor32) ∨ (m = 0xa1#32 ∧ mk = .atomicFetchXor32) ∨
    (m = 0xe1#32 ∧ mk = .atomicXchg32) ∨ (m = 0xf1#32 ∧ mk = .atomicCmpxchg32) := by
  iterate 9 refine selected_or h fun h => ?_
  exact selected_last h

theorem pickAtomic64_eq_some {mk : Reg → Reg → Off → Instr} (h : pickAtomic64 m = some mk) :
    (m = 0x00#32 ∧ mk = .atomicAdd64) ∨ (m = 0x01#32 ∧ mk = .atomicFetchAdd64) ∨
    (m = 0x40#32 ∧ mk = .atomicOr64) ∨ (m = 0x41#32 ∧ mk = .atomicFetchOr64) ∨
    (m = 0x50#32 ∧ mk = .atomicAnd64) ∨ (m = 0x51#32 ∧ mk = .atomicFetchAnd64) ∨
    (m = 0xa0#32 ∧ mk = .atomicXor64) ∨ (m = 0xa1#32 ∧ mk = .atomicFetchXor64) ∨
    (m = 0xe1#32 ∧ mk = .atomicXchg64) ∨ (m = 0xf1#32 ∧ mk = .atomicCmpxchg64) := by
  iterate 9 refine selected_or h fun h => ?_
  exact selected_last h

end Selected

/-- A choice among byte swaps, as one among the instructions that they make. -/
theorem exists_eq_of_swap {m c : Imm} {mk mk' : Reg → Instr} {d : Reg} (h : m = c ∧ mk = mk') :
    m = c ∧ ∃ d', mk d = mk' d' :=
  ⟨h.1, d, by rw [h.2]⟩

/-- A choice among atomic operations, as one among the instructions that they make. -/
theorem exists_eq_of_atomic {m c : Imm} {mk mk' : Reg → Reg → Off → Instr} {d s : Reg} {o : Off}
    (h : m = c ∧ mk = mk') : m = c ∧ ∃ d' s' o', mk d s o = mk' d' s' o' :=
  ⟨h.1, d, s, o, by rw [h.2]⟩

/-- Settles O17: the four opcodes have the formats that select by `imm`, and what these select is listed above. -/
theorem selectedByImm : Obligations.SelectedByImm := by
  intro p w second i h
  refine ⟨fun hop => ?le, fun hop => ?be, fun hop => ?atomic32, fun hop => ?atomic64⟩
  case le =>
    obtain ⟨d, mk, -, -, -, -, hk, -, rfl⟩ := (decode_byteSwap_iff (pick := pickLe) (by rw [hop]; rfl)).1 h
    exact (pickLe_eq_some hk).imp exists_eq_of_swap <| .imp exists_eq_of_swap exists_eq_of_swap
  case be =>
    obtain ⟨d, mk, -, -, -, -, hk, -, rfl⟩ := (decode_byteSwap_iff (pick := pickBe) (by rw [hop]; rfl)).1 h
    exact (pickBe_eq_some hk).imp exists_eq_of_swap <| .imp exists_eq_of_swap exists_eq_of_swap
  case atomic32 =>
    obtain ⟨d, r, mk, -, -, hk, -, rfl⟩ := (decode_atomic_iff (pick := pickAtomic32) (by rw [hop]; rfl)).1 h
    exact (pickAtomic32_eq_some hk).imp exists_eq_of_atomic <| .imp exists_eq_of_atomic <|
      .imp exists_eq_of_atomic <| .imp exists_eq_of_atomic <| .imp exists_eq_of_atomic <|
      .imp exists_eq_of_atomic <| .imp exists_eq_of_atomic <| .imp exists_eq_of_atomic <|
      .imp exists_eq_of_atomic exists_eq_of_atomic
  case atomic64 =>
    obtain ⟨d, r, mk, -, -, hk, -, rfl⟩ := (decode_atomic_iff (pick := pickAtomic64) (by rw [hop]; rfl)).1 h
    exact (pickAtomic64_eq_some hk).imp exists_eq_of_atomic <| .imp exists_eq_of_atomic <|
      .imp exists_eq_of_atomic <| .imp exists_eq_of_atomic <| .imp exists_eq_of_atomic <|
      .imp exists_eq_of_atomic <| .imp exists_eq_of_atomic <| .imp exists_eq_of_atomic <|
      .imp exists_eq_of_atomic exists_eq_of_atomic

/-- Settles O14: the decoder computes on each of the ten words. -/
theorem decodeWords : Obligations.DecodeWords := ⟨rfl, rfl, rfl, rfl, rfl, rfl, rfl, rfl, rfl, rfl⟩

/-! ### Well-formedness -/

/-- The three reasons for which a term of `Instr` is ill-formed (R91). -/
theorem wellFormed_iff {p : Params} {i : Instr} :
    i.WellFormed p ↔ .r10 ∉ i.written ∧ ¬ (i.version = some .v3 ∧ p.isaVersion = .v1) ∧
      ¬ (p.negSemantics = .twosComplement ∧ i.isExtraNegForm = true) := by
  unfold Instr.WellFormed Instr.illFormed?
  split_ifs <;> simp_all

/-- Settles O22: each of the three reasons is one of those that well-formedness rules out. -/
theorem decodedWellFormed : Obligations.DecodedWellFormed := by
  intro p w second i h
  have hw := wellFormed_of_decode h
  obtain ⟨hr10, hversion, -⟩ := wellFormed_iff.1 hw
  exact ⟨hw, hr10, fun hp hv => hversion ⟨hv, hp⟩, Machine.isExtraNegForm_of_wellFormed hw⟩

/-! ### Decoding what is encoded -/

theorem lookupOpcode_append (l r : List (BitVec 8 × Form)) (op : BitVec 8) :
    lookupOpcode (l ++ r) op = (lookupOpcode l op).or (lookupOpcode r op) := by
  induction l with
  | nil => rfl
  | cons row l ih =>
    simp only [List.cons_append, lookupOpcode]
    split
    · rfl
    · exact ih

/-- The format of an opcode is found class by class (R87). -/
theorem formOf_eq_or (op : BitVec 8) :
    formOf op = (((((((lookupOpcode opcodesLd op).or (lookupOpcode opcodesLdx op)).or (lookupOpcode opcodesSt op)).or
      (lookupOpcode opcodesStx op)).or (lookupOpcode opcodesAlu op)).or (lookupOpcode opcodesJmp op)).or
      (lookupOpcode opcodesJmp32 op)).or (lookupOpcode opcodesAlu64 op) := by
  simp only [formOf, opcodeTable, lookupOpcode_append]

/-- The instruction is encoded in a slot of a format that makes it of the slot's fields and the rest of the encoding,
whatever follows. -/
theorem exists_makes (p : Params) (i : Instr) (hw : i.WellFormed p) :
    ∃ op d s o m rest f, encode p i = packSlot op d s o m :: rest ∧ formOf op = some f ∧
      ∀ tail : List Word, f.Makes p d s o m (rest ++ tail).head? i := by
  have hr10 : .r10 ∉ i.written := (wellFormed_iff.1 hw).1
  cases i with
  | le16 d | le32 d | le64 d | be16 d | be32 d | be64 d =>
    have hd : d ≠ .r10 := fun h => hr10 (by simp [h, Instr.written])
    exact ⟨_, _, _, _, _, _, _, rfl, rfl, fun _ => .byteSwap _ _ _ _ _ rfl hd⟩
  | lddw d v =>
    have hd : d ≠ .r10 := fun h => hr10 (by simp [h, Instr.written])
    cases hl : p.lddwLayout with
    | sourceLiteral =>
      exact ⟨_, _, _, _, _, _, _, by rw [encode, hl], rfl, fun _ => .lddwLiteral _ _ _ hl hd⟩
    | splitHalves =>
      refine ⟨_, _, _, _, _, _, _, by rw [encode, hl], rfl, fun _ => ?_⟩
      have h := Form.Makes.lddwSplit .lddw d (v.extractLsb' 0 32) _ hl hd
        (extractLsb'_packSlot_zero (v.extractLsb' 32 32))
      rwa [immField_packSlot, BitVec.extractLsb'_append_extractLsb'] at h
  | _ => exact ⟨_, _, _, _, _, _, _, rfl, (formOf_eq_or _).trans rfl, fun _ => by constructor <;> rfl⟩

/-- Settles O20: the encoding packs fields that the instruction's format makes it of, and such a slot decodes. -/
theorem decodeEncode : Obligations.DecodeEncode := by
  intro p i tail hw
  obtain ⟨op, d, s, o, m, rest, f, he, hf, hm⟩ := exists_makes p i hw
  exact ⟨_, rest, he, decode_packSlot hf (hm tail) hw⟩

/-! ### Encoding what is decoded -/

/-- The row of an opcode in the table is what the encoder writes: the instruction that the row's format makes of the
fields of a slot is encoded as that slot, followed for the wide opcode by the second (R75, R87). -/
def RowEncodes (p : Params) (row : BitVec 8 × Form) : Prop :=
  ∀ d s o m second i, row.2.Makes p d s o m second i →
    encode p i = packSlot row.1 d s o m :: if row.1 = 0x18 then second.toList else []

section Rows

variable (p : Params)

theorem rowEncodes_lddw : RowEncodes p (0x18, .lddw .lddw) := by
  intro d s o m second i hm
  cases hm with
  | lddwLiteral _ d v hl hn => simp [encode, hl]
  | lddwSplit _ d m v hl hn hz =>
    have hlow : (immField v ++ m).extractLsb' 0 32 = m := BitVec.extractLsb'_append_eq_right
    have hhigh : (immField v ++ m).extractLsb' 32 32 = immField v := BitVec.extractLsb'_append_eq_left
    simpa [encode, hl, hlow, hhigh] using packSlot_zero_immField hz

theorem rowEncodes_le : RowEncodes p (0xd4, .byteSwap pickLe) := by
  rintro _ _ _ _ _ _ ⟨⟩
  next hk => obtain ⟨rfl, rfl⟩ | ⟨rfl, rfl⟩ | ⟨rfl, rfl⟩ := pickLe_eq_some hk <;> rfl

theorem rowEncodes_be : RowEncodes p (0xdc, .byteSwap pickBe) := by
  rintro _ _ _ _ _ _ ⟨⟩
  next hk => obtain ⟨rfl, rfl⟩ | ⟨rfl, rfl⟩ | ⟨rfl, rfl⟩ := pickBe_eq_some hk <;> rfl

theorem rowEncodes_atomic32 : RowEncodes p (0xc3, .atomic pickAtomic32) := by
  rintro _ _ _ _ _ _ ⟨⟩
  next hk =>
    rcases pickAtomic32_eq_some hk with ⟨rfl, rfl⟩ | ⟨rfl, rfl⟩ | ⟨rfl, rfl⟩ | ⟨rfl, rfl⟩ | ⟨rfl, rfl⟩ | ⟨rfl, rfl⟩ |
      ⟨rfl, rfl⟩ | ⟨rfl, rfl⟩ | ⟨rfl, rfl⟩ | ⟨rfl, rfl⟩ <;> rfl

theorem rowEncodes_atomic64 : RowEncodes p (0xdb, .atomic pickAtomic64) := by
  rintro _ _ _ _ _ _ ⟨⟩
  next hk =>
    rcases pickAtomic64_eq_some hk with ⟨rfl, rfl⟩ | ⟨rfl, rfl⟩ | ⟨rfl, rfl⟩ | ⟨rfl, rfl⟩ | ⟨rfl, rfl⟩ | ⟨rfl, rfl⟩ |
      ⟨rfl, rfl⟩ | ⟨rfl, rfl⟩ | ⟨rfl, rfl⟩ | ⟨rfl, rfl⟩ <;> rfl

/-- Every row of the table is what the encoder writes. The five rows whose instruction hangs on `imm` or on the second
slot are those above; in the others the format fixes the instruction, and the encoder's equation for it is the row. -/
theorem rowEncodes_of_mem : ∀ row ∈ opcodeTable, RowEncodes p row := by
  have := rowEncodes_lddw p
  have := rowEncodes_le p
  have := rowEncodes_be p
  have := rowEncodes_atomic32 p
  have := rowEncodes_atomic64 p
  simp only [opcodeTable, List.forall_mem_append, ← List.forall_iff_forall_mem]
  repeat' apply And.intro
  any_goals assumption
  all_goals (rintro _ _ _ _ _ _ ⟨⟩; rfl)

end Rows

/-- What a valid opcode's format makes of the fields of a slot is encoded as that slot and, for the wide opcode, the
second. -/
theorem encode_of_makes {p : Params} {op : BitVec 8} {f : Form} {d s : BitVec 4} {o : Off} {m : Imm}
    {second : Option Word} {i : Instr} (hf : formOf op = some f) (hm : f.Makes p d s o m second i) :
    encode p i = packSlot op d s o m :: if op = 0x18 then second.toList else [] :=
  rowEncodes_of_mem p _ (formOf_mem hf) d s o m second i hm

/-- What decodes has a valid opcode. -/
theorem exists_formOf_of_decode {p : Params} {w : Word} {second : Option Word} {i : Instr}
    (h : decode p w second = .ok i) : ∃ f, formOf (opcodeField w) = some f := by
  cases hf : formOf (opcodeField w) with
  | none => simp [decode, hf] at h
  | some f => exact ⟨f, rfl⟩

/-- Settles O21: the slot is its fields packed, and its format, which made the instruction of them, encodes it back. -/
theorem encodeDecode : Obligations.EncodeDecode := by
  intro p w second i h
  obtain ⟨f, hf⟩ := exists_formOf_of_decode h
  rw [encode_of_makes hf (makes_of_decode hf h), packSlot_fields]

/-- Every other instruction takes one slot (R75). -/
theorem slotCount_of_ne_lddw {i : Instr} (h : ∀ d v, i ≠ .lddw d v) : Machine.slotCount i = 1 := by
  cases i with
  | lddw d v => exact absurd rfl (h d v)
  | _ => rfl

/-- The wide instruction takes two slots under either layout (R300). -/
theorem length_encode_lddw (p : Params) (d : Reg) (v : Word) : (encode p (.lddw d v)).length = 2 := by
  rw [encode]; cases p.lddwLayout <;> rfl

/-- Settles O18. The wide opcode has the format of `lddw`; any other decodes to one slot, which `lddw` is not. -/
theorem wideByOpcode : Obligations.WideByOpcode := by
  intro p w second i h
  have hwide : opcodeField w = 0x18 → ∃ d v, i = .lddw d v := fun hop => by
    obtain ⟨d, v, -, -, -, -, -, ⟨-, -, -, hi⟩ | ⟨-, -, -, hi⟩⟩ :=
      (decode_lddw_iff (mk := .lddw) (by rw [hop]; rfl)).1 h
    · exact ⟨_, _, hi⟩
    · exact ⟨_, _, hi⟩
  have hone : opcodeField w ≠ 0x18 → (encode p i).length = 1 := fun hop => by
    rw [encodeDecode p w second i h, if_neg hop]; rfl
  have hnot : opcodeField w ≠ 0x18 → ∀ d v, i ≠ .lddw d v := by
    rintro hop d v rfl
    have h1 := hone hop
    rw [length_encode_lddw] at h1
    cases h1
  refine ⟨⟨hwide, fun ⟨d, v, hi⟩ => ?opcode⟩, fun hop => ?two, fun hop => ⟨hone hop, slotCount_of_ne_lddw (hnot hop)⟩⟩
  case opcode => exact Decidable.byContradiction fun hop => hnot hop d v hi
  case two =>
    obtain ⟨d, v, rfl⟩ := hwide hop
    exact ⟨length_encode_lddw p d v, rfl⟩

/-! ### What is refused as reserved -/

/-- An opcode without a format is one that no row of the table has. -/
theorem lookupOpcode_eq_none_iff {l : List (BitVec 8 × Form)} {op : BitVec 8} :
    lookupOpcode l op = none ↔ op ∉ l.map Prod.fst := by
  induction l with
  | nil => simp [lookupOpcode]
  | cons row l ih =>
    simp only [lookupOpcode, List.map_cons, List.mem_cons, not_or, ← ih]
    split <;> simp [*]

/-- The bytes of a list as a set: bit `k` says whether byte `k` is in it. -/
def byteSet : List (BitVec 8) → BitVec 256
  | [] => 0
  | op :: l => BitVec.twoPow 256 op.toNat ||| byteSet l

theorem getLsbD_byteSet (l : List (BitVec 8)) (op : BitVec 8) : (byteSet l).getLsbD op.toNat = true ↔ op ∈ l := by
  induction l with
  | nil => simp [byteSet]
  | cons k l ih =>
    have hk : k.toNat < 256 := k.isLt
    simp only [byteSet, BitVec.getLsbD_or, BitVec.getLsbD_twoPow, hk, decide_true, Bool.true_and, Bool.or_eq_true,
      decide_eq_true_eq, BitVec.toNat_inj, ih, List.mem_cons, eq_comm (a := k)]

/-- The bytes that R93 lists are the complement of the 122 bytes of the table (R87). -/
theorem byteSet_reservedOpcodes : byteSet Machine.reservedOpcodes = ~~~ byteSet (opcodeTable.map Prod.fst) := by
  decide +kernel

/-- The opcodes without a format are those that R93 lists. -/
theorem formOf_eq_none_iff (op : BitVec 8) : formOf op = none ↔ op ∈ Machine.reservedOpcodes := by
  rw [formOf, lookupOpcode_eq_none_iff, ← getLsbD_byteSet, ← getLsbD_byteSet, byteSet_reservedOpcodes]
  simp [op.isLt]

theorem require_eq_error {c : Bool} {r e : IllFormed} : require c r = .error e ↔ c = false ∧ r = e := by
  cases c <;> simp [require]

theorem regOfField_ne_reserved (v : BitVec 4) : regOfField v ≠ .error .reservedOpcode := by
  unfold regOfField
  split <;> simp

theorem wellFormedOr_ne_reserved (p : Params) (i : Instr) : wellFormedOr p i ≠ .error .reservedOpcode := by
  unfold wellFormedOr Instr.illFormed?
  split_ifs <;> simp

/-- No check that a format makes reports a reserved opcode (R91). -/
theorem formDecode_ne_reserved (f : Form) (p : Params) (w : Word) (second : Option Word) :
    f.decode p w second ≠ .error .reservedOpcode := by
  cases f with
  | byteSwap pick =>
    cases hk : pick (immField w) <;>
      simp [Form.decode, Machine.bind_eq_error, require_eq_error, regOfField_ne_reserved, wellFormedOr_ne_reserved, hk]
  | atomic pick =>
    cases hk : pick (immField w) <;>
      simp [Form.decode, Machine.bind_eq_error, regOfField_ne_reserved, wellFormedOr_ne_reserved, hk]
  | lddw mk =>
    cases second <;> cases hl : p.lddwLayout <;>
      simp [Form.decode, Machine.bind_eq_error, require_eq_error, regOfField_ne_reserved, wellFormedOr_ne_reserved, hl]
  | _ =>
    simp [Form.decode, Machine.bind_eq_error, require_eq_error, regOfField_ne_reserved, wellFormedOr_ne_reserved]

/-- Settles O16: the reason stands for a slot without a format alone, and those slots are the ones listed. -/
theorem reservedOpcodes : Obligations.ReservedOpcodes := by
  intro p w second
  rw [← formOf_eq_none_iff]
  cases hf : formOf (opcodeField w) with
  | none => simp [decode, hf]
  | some f => simpa [decode_of_form hf] using formDecode_ne_reserved f p w second

/-! ### The fields of a slot -/

/-- Settles O15: a field is a quotient modulo a power of two, and packing is inverse to taking the fields. -/
theorem slotFields : Obligations.SlotFields := by
  refine ⟨fun w => ?positions, fun op d s o m => ?unpacked, packSlot_fields⟩
  case positions =>
    simp [opcodeField, dstField, srcField, offField, immField, Nat.shiftRight_eq_div_pow]
  case unpacked =>
    exact ⟨opcodeField_packSlot .., dstField_packSlot .., srcField_packSlot .., offField_packSlot ..,
      immField_packSlot ..⟩

end Sys2Proof

namespace Sys2Proof.Machine

/-! ### The walk over the slots, and the fetch -/

/-- The walk of R90 step 1, one slot on. -/
theorem isSecondSlot_succ {program : List Word} {k : Nat} {w : Word} (hw : program[k]? = some w) :
    isSecondSlot program (k + 1) = (!isSecondSlot program k && isWide w) := by
  simp only [isSecondSlot, List.take_add_one, hw, Option.toList_some, endsInWide_append]

/-- Settles O10: the walk begins at a slot that is no second slot, and goes one slot on at a time. -/
theorem secondSlotWalk : Obligations.SecondSlotWalk := by
  intro program
  refine ⟨rfl, fun k w hw => ?_⟩
  rw [isSecondSlot_succ hw]
  simp [isWide]

/-- `pc` is the number of no slot that starts an instruction (R29, R90 step 1). -/
theorem fetch_of_outOfRange {s : State}
    (h : s.pc < 0 ∨ (s.program.length : Int) ≤ s.pc ∨ isSecondSlot s.program s.pc.toNat = true) :
    fetch s = .error (.pcOutOfRange s.pc) := if_pos h

/-- A running machine takes the fault of its fetch (R321). -/
theorem step_of_fetch_error {s : State} {f : Fault} (hr : s.outcome = .running) (hf : fetch s = .error f) :
    step s = .next (raise s f) := by
  simp only [step, hr, hf]

/-- Settles O9: each fault of the fetch is taken as it is. -/
theorem stepFaultsAtFetch : Obligations.StepFaultsAtFetch := by
  intro s hr
  refine ⟨fun hpc => step_of_fetch_error hr (fetch_of_outOfRange hpc), fun k w r hp hw hs hd => ?_⟩
  have hf : fetch s = .error (.illegalInstruction r w) := by rw [fetch_of_slot hp hw hs, hd]; rfl
  exact step_of_fetch_error hr hf

/-- The check of a program before a run finds an instruction at every slot that starts one (R90). -/
theorem exists_decodeAt_of_loadCheck {p : Params} {program : List Word} {k : Nat} (h : loadCheck p program = true)
    (hk : k < program.length) (hs : isSecondSlot program k = false) : ∃ i, decodeAt p program k = .ok i := by
  have hc := List.all_eq_true.1 h k (List.mem_range.2 hk)
  cases hd : decodeAt p program k with
  | ok i => exact ⟨i, rfl⟩
  | error r => simp [hs, hd] at hc

/-- Settles O23: where `pc` starts an instruction, the check found that the slot decodes. -/
theorem loadCheckSound : Obligations.LoadCheckSound := by
  intro s f hc hf
  by_cases hpc : s.pc < 0 ∨ (s.program.length : Int) ≤ s.pc ∨ isSecondSlot s.program s.pc.toNat = true
  · rw [fetch_of_outOfRange hpc] at hf
    cases hf; rfl
  · obtain ⟨hlow, hhigh, hs⟩ := by simpa only [not_or] using hpc
    obtain ⟨i, hi⟩ := exists_decodeAt_of_loadCheck hc (k := s.pc.toNat) (by omega) (by simpa using hs)
    simp only [fetch, if_neg hpc, hi] at hf
    cases hf

/-- An ill-formed instruction takes its fault before its body runs (R91, R323 step 2). -/
theorem attempt_illFormed {i : Instr} {s : State} {r : IllFormed} (body : State → Except Fault State)
    (h : i.illFormed? s.params = some r) :
    attempt i s body = .next (raise s (.illegalInstruction r (slotAtPc s))) := by
  simp only [attempt, h]

/-- Settles O31: every instruction runs its body under the check of well-formedness. -/
theorem illFormedTaken : Obligations.IllFormedTaken := by
  intro i s r h
  obtain ⟨body, -, hexec⟩ := exists_bodyOf i
  exact ⟨slotAtPc s, by rw [hexec, attempt_illFormed body h]⟩

end Sys2Proof.Machine

/-! The arithmetic instructions (`40_alu.md`), and the bytes of memory that an instruction may change (R110).

Every statement about an operation is reduced to one equation: what the operation answers on two operands of any
width. The coding, the order of the reads and the end of the instruction are proved once for each class and source. -/

namespace Sys2Proof.Machine

/-! ### The bytes an instruction stores to -/

/-- What a body that raises no fault does to memory: nothing where it has no target, else it stores as many bytes as the
target's size says, at the target's base register plus offset (R60). -/
inductive StoresTo (s t : State) : Option (Reg × Off × Size) → Prop
  | nothing : t.mem = s.mem → StoresTo s t none
  | bytes (base : Reg) (off : Off) (z : Size) (b v : Word) : s.regs.get base = some b →
      t.mem = writeBytes s.mem (effAddr b off).toNat (storedBytes s z v) → StoresTo s t (some (base, off, z))

/-- The target of each body but that of `call`. -/
inductive Targets : (State → Except Fault State) → Option (Reg × Off × Size) → Prop
  | alu64 (op : AluOp) (dst : Reg) (b : Source) : Targets (alu64 op dst b) none
  | alu32 (op : AluOp) (dst : Reg) (b : Source) : Targets (alu32 op dst b) none
  | mov64 (dst : Reg) (b : Source) : Targets (mov64 dst b) none
  | mov32 (dst : Reg) (b : Source) : Targets (mov32 dst b) none
  | neg64 (dst : Reg) (b : Source) : Targets (neg64 dst b) none
  | neg32 (dst : Reg) (b : Source) : Targets (neg32 dst b) none
  | byteSwap (e : Endian) (n : Nat) (dst : Reg) : Targets (byteSwap e n dst) none
  | jumpAlways (off : Off) : Targets (jumpAlways off) none
  | jump64 (c : Cond) (dst : Reg) (b : Source) (off : Off) : Targets (jump64 c dst b off) none
  | jump32 (c : Cond) (dst : Reg) (b : Source) (off : Off) : Targets (jump32 c dst b off) none
  | exitProgram : Targets exitProgram none
  | loadReg (z : Size) (dst src : Reg) (off : Off) : Targets (loadReg z dst src off) none
  | storeImm (z : Size) (dst : Reg) (off : Off) (imm : Imm) : Targets (storeImm z dst off imm) (some (dst, off, z))
  | storeReg (z : Size) (dst src : Reg) (off : Off) : Targets (storeReg z dst src off) (some (dst, off, z))
  | atomicPlain (z : Size) (f : Word → Word → Word) (dst src : Reg) (off : Off) :
      Targets (atomicPlain z f dst src off) (some (dst, off, z))
  | atomicFetch (z : Size) (f : Word → Word → Word) (dst src : Reg) (off : Off) :
      Targets (atomicFetch z f dst src off) (some (dst, off, z))
  | atomicCompare (z : Size) (dst src : Reg) (off : Off) : Targets (atomicCompare z dst src off) (some (dst, off, z))
  | loadImm64 (dst : Reg) (v : Word) : Targets (loadImm64 dst v) none
  | loadAbs (z : Size) (imm : Imm) : Targets (loadAbs z imm) none
  | loadInd (z : Size) (src : Reg) (imm : Imm) : Targets (loadInd z src imm) none

/-- Every instruction but `call` runs a body with the target that `storeTarget` gives it. -/
theorem exists_targets {i : Instr} (hc : ∀ n, i ≠ .call n) :
    ∃ body, Targets body (storeTarget i) ∧ ∀ s, exec i s = attempt i s body := by
  cases i with
  | call n => exact absurd rfl (hc n)
  | _ => exact ⟨_, by constructor, fun _ => rfl⟩

section Stores

variable {s t u : State} {dst src : Reg} {off : Off} {z : Size}

theorem mem_of_packetLoad {x6 : Word} {o : Int} (h : packetLoad z x6 o s = .ok t) : t.mem = s.mem := by
  obtain ⟨_, -, ⟨-, rfl⟩ | ⟨_, -, rfl⟩⟩ := packetLoad_eq_ok.1 h <;> rfl

theorem mem_of_atomicUpdate {addr old : Word} {f : Word → Word} (h : atomicUpdate s addr z f = .ok (old, u)) :
    u.mem = writeBytes s.mem addr.toNat (storedBytes s z (f old)) := by
  obtain ⟨hu, -⟩ := atomicUpdate_frame h
  rw [hu]

/-- An atomic access stores at its base register plus offset, whatever comes after it keeps memory. -/
theorem storesTo_of_atomicAccess {f : Word → Word → Word} {old : Word}
    (h : atomicAccess z dst src off f s = .ok (old, u)) (ht : t.mem = u.mem) : StoresTo s t (some (dst, off, z)) := by
  obtain ⟨b, _, hb, -, hu⟩ := atomicAccess_eq_ok.1 h
  exact .bytes _ _ _ b _ hb (ht.trans (mem_of_atomicUpdate hu))

/-- What a body's equation in `Laws/Meanings.lean` says of memory. -/
theorem Targets.storesTo {body : State → Except Fault State} {target : Option (Reg × Off × Size)}
    (hb : Targets body target) (h : body s = .ok t) : StoresTo s t target := by
  cases hb with
  | alu64 => obtain ⟨_, _, _, -, -, -, rfl⟩ := alu64_eq_ok.1 h; exact .nothing rfl
  | alu32 => obtain ⟨_, _, _, -, -, -, rfl⟩ := alu32_eq_ok.1 h; exact .nothing rfl
  | mov64 => obtain ⟨_, -, rfl⟩ := mov64_eq_ok.1 h; exact .nothing rfl
  | mov32 => obtain ⟨_, -, rfl⟩ := mov32_eq_ok.1 h; exact .nothing rfl
  | neg64 => obtain ⟨_, rfl⟩ := neg64_eq_ok h; exact .nothing rfl
  | neg32 => obtain ⟨_, rfl⟩ := neg32_eq_ok h; exact .nothing rfl
  | byteSwap => obtain ⟨_, -, rfl⟩ := byteSwap_eq_ok.1 h; exact .nothing rfl
  | jumpAlways => cases h; exact .nothing rfl
  | jump64 => obtain ⟨_, _, -, -, rfl⟩ := jump64_eq_ok.1 h; exact .nothing (by rw [branch_pc])
  | jump32 => obtain ⟨_, _, -, -, rfl⟩ := jump32_eq_ok.1 h; exact .nothing (by rw [branch_pc])
  | exitProgram => obtain ⟨_, -, rfl⟩ := exitProgram_eq_ok.1 h; exact .nothing rfl
  | loadReg =>
    obtain ⟨_, _, u, -, hu, rfl⟩ := loadReg_eq_ok.1 h
    exact .nothing (by rw [memRead_frame hu]; rfl)
  | storeImm =>
    obtain ⟨b, u, hb, hu, rfl⟩ := storeImm_eq_ok.1 h
    exact .bytes _ _ _ b _ hb (by rw [(memWrite_frame hu).1]; rfl)
  | storeReg =>
    obtain ⟨b, _, u, hb, -, hu, rfl⟩ := storeReg_eq_ok.1 h
    exact .bytes _ _ _ b _ hb (by rw [(memWrite_frame hu).1]; rfl)
  | atomicPlain => obtain ⟨_, _, hu, rfl⟩ := atomicPlain_eq_ok.1 h; exact storesTo_of_atomicAccess hu rfl
  | atomicFetch => obtain ⟨_, _, hu, rfl⟩ := atomicFetch_eq_ok.1 h; exact storesTo_of_atomicAccess hu rfl
  | atomicCompare =>
    obtain ⟨b, _, _, _, _, hb, -, -, hu, rfl⟩ := atomicCompare_eq_ok.1 h
    exact .bytes _ _ _ b _ hb (by rw [advance_mem, writeReg_mem, mem_of_atomicUpdate hu])
  | loadImm64 => cases h; exact .nothing rfl
  | loadAbs => obtain ⟨_, -, h⟩ := loadAbs_eq_ok.1 h; exact .nothing (mem_of_packetLoad h)
  | loadInd => obtain ⟨_, _, -, -, h⟩ := loadInd_eq_ok.1 h; exact .nothing (mem_of_packetLoad h)

end Stores

/-- Settles O26: a fault changes no byte, and a body that completes stores to its target alone. -/
theorem memoryFrame : Obligations.MemoryFrame := by
  intro i s t hc h
  obtain ⟨body, hbody, hexec⟩ := exists_targets hc
  rw [hexec] at h
  obtain ⟨f, rfl⟩ | ⟨-, hok⟩ := attempt_cases h
  · exact ⟨fun _ => rfl, fun _ _ _ _ => ⟨fun _ => rfl, fun _ _ _ _ => rfl⟩⟩
  have hs := hbody.storesTo hok
  generalize storeTarget i = target at hs
  cases hs with
  | nothing hm => exact ⟨fun _ => hm, nofun⟩
  | bytes base off z b v hb hm =>
    refine ⟨nofun, ?_⟩
    rintro _ _ _ ⟨⟩
    refine ⟨fun hn => ?noBase, fun b' hb' a ha => ?outside⟩
    case noBase => rw [hb] at hn; cases hn
    case outside =>
      rw [hb] at hb'; cases hb'
      rw [hm]
      exact readByte_writeBytes_outside _ _ _ _ (by rw [storedBytes_length]; exact ha)

/-! ### Arithmetic: what decodes and what is refused -/

section Coding

variable {op : BitVec 8} {p : Params} {i : Instr} {dst : Reg}

/-- What no instruction is decoded from is refused. -/
theorem exists_decode_error {w : Word} {second : Option Word} (h : ∀ i, decode p w second ≠ .ok i) :
    ∃ r, decode p w second = .error r := by
  cases hd : decode p w second with
  | ok i => exact absurd hd (h i)
  | error r => exact ⟨r, rfl⟩

/-- An instruction that writes R10 is ill-formed (R23, R91). -/
theorem ne_r10_of_wellFormed (hi : i.written = [dst]) (hw : i.WellFormed p) : dst ≠ .r10 := by
  obtain ⟨hr10, -, -⟩ := wellFormed_iff.1 hw
  rintro rfl
  exact hr10 (by simp [hi])

/-- An instruction that writes one register, has no version tag and is no form of `BPF_NEG` that two's complement
rules out is well-formed but for a write to R10 (R91). -/
theorem wellFormed_of_ne_r10 (hi : i.written = [dst]) (hv : i.version = none)
    (hn : p.negSemantics = .twosComplement → i.isExtraNegForm = false) (hd : dst ≠ .r10) : i.WellFormed p :=
  wellFormed_iff.2 ⟨by simpa [hi, eq_comm] using hd, by simp [hv], fun ⟨hp, he⟩ => by simp [hn hp] at he⟩

/-- The number of a register that is not R10 (R22). -/
theorem field_lt_ten (h : dst ≠ .r10) : dst.field.toNat < 10 :=
  Nat.lt_of_not_le fun hten => h (field_eq_ten hten)

/-- What format `ALU_K` with a written destination refuses (R86, R91). -/
theorem refuses_aluK {mk : Reg → Imm → Instr} (hf : formOf op = some (.aluK mk))
    (hi : ∀ dst imm, (mk dst imm).written = [dst]) :
    Refuses op (fun w => srcField w ≠ 0 ∨ offField w ≠ 0 ∨ 10 ≤ (dstField w).toNat) := by
  rintro p w second rfl hbad
  refine exists_decode_error fun i h => ?_
  obtain ⟨d, hd, hs, ho, hw, -⟩ := (decode_aluK_iff hf).1 h
  have hlt := field_lt_ten (ne_r10_of_wellFormed (hi d _) hw)
  obtain hb | hb | hb := hbad
  · exact hb hs
  · exact hb ho
  · rw [hd] at hb; omega

/-- What format `ALU_X` with a written destination refuses (R86, R91). -/
theorem refuses_aluX {mk : Reg → Reg → Instr} (hf : formOf op = some (.aluX mk))
    (hi : ∀ dst src, (mk dst src).written = [dst]) :
    Refuses op (fun w => offField w ≠ 0 ∨ immField w ≠ 0 ∨ 10 ≤ (dstField w).toNat ∨ 10 < (srcField w).toNat) := by
  rintro p w second rfl hbad
  refine exists_decode_error fun i h => ?_
  obtain ⟨d, r, hd, hs, ho, hm, hw, -⟩ := (decode_aluX_iff hf).1 h
  have hlt := field_lt_ten (ne_r10_of_wellFormed (hi d r) hw)
  have hle := field_le_ten r
  obtain hb | hb | hb | hb := hbad
  · exact hb ho
  · exact hb hm
  · rw [hd] at hb; omega
  · rw [hs] at hb; omega

end Coding

/-! ### Arithmetic: an instruction and its body -/

/-- `i` is an arithmetic instruction that writes `dst` and means `body`. -/
structure Means (i : Instr) (dst : Reg) (body : State → Except Fault State) : Prop where
  written : i.written = [dst]
  version : i.version = none
  exec : ∀ s, exec i s = attempt i s body

/-- `i` is such an instruction and exists whatever `BPF_NEG` means: all but the forms of `BPF_NEG` (R91). -/
structure MeansAlways (i : Instr) (dst : Reg) (body : State → Except Fault State) : Prop extends Means i dst body where
  negForm : i.isExtraNegForm = false

/-- The instructions `mk dst imm` have the opcode `op` and the meaning `body` with an immediate source. -/
structure FormK (op : BitVec 8) (mk : Reg → Imm → Instr) (body : Reg → Source → State → Except Fault State) :
    Prop where
  format : formOf op = some (.aluK mk)
  means : ∀ dst imm, MeansAlways (mk dst imm) dst (body dst (.k imm))

/-- The instructions `mk dst src` have the opcode `op` and the meaning `body` with a register source. -/
structure FormX (op : BitVec 8) (mk : Reg → Reg → Instr) (body : Reg → Source → State → Except Fault State) :
    Prop where
  format : formOf op = some (.aluX mk)
  means : ∀ dst src, MeansAlways (mk dst src) dst (body dst (.x src))

section Meaning

variable {i : Instr} {dst : Reg} {body : State → Except Fault State} {s : State}

theorem Means.wellFormed {p : Params} (h : Means i dst body) (hd : dst ≠ .r10)
    (hn : p.negSemantics = .twosComplement → i.isExtraNegForm = false) : i.WellFormed p :=
  wellFormed_of_ne_r10 h.written h.version hn hd

/-- Where the instruction exists and its destination is not R10, the body runs and its fault, if any, is taken
(R321). -/
theorem Means.exec_eq (h : Means i dst body) (hd : dst ≠ .r10)
    (hn : s.params.negSemantics = .twosComplement → i.isExtraNegForm = false) :
    Machine.exec i s = .next (settle s (body s)) := by
  rw [h.exec, attempt_wellFormed (h.wellFormed hd hn)]

theorem MeansAlways.wellFormed (h : MeansAlways i dst body) (hd : dst ≠ .r10) (p : Params) : i.WellFormed p :=
  h.toMeans.wellFormed hd fun _ => h.negForm

theorem MeansAlways.exec_eq (h : MeansAlways i dst body) (hd : dst ≠ .r10) :
    Machine.exec i s = .next (settle s (body s)) :=
  h.toMeans.exec_eq hd fun _ => h.negForm

end Meaning

section Forms

variable {op : BitVec 8} {mkK : Reg → Imm → Instr} {mkX : Reg → Reg → Instr}
  {body : Reg → Source → State → Except Fault State}

theorem FormK.coded (h : FormK op mkK body) : CodedAluK op mkK :=
  ⟨fun p _ _ _ hd => decode_packSlot h.format (.aluK ..) ((h.means _ _).wellFormed hd p),
    refuses_aluK h.format fun _ _ => (h.means _ _).written⟩

theorem FormX.coded (h : FormX op mkX body) : CodedAluX op mkX :=
  ⟨fun p _ _ _ hd => decode_packSlot h.format (.aluX ..) ((h.means _ _).wellFormed hd p),
    refuses_aluX h.format fun _ _ => (h.means _ _).written⟩

end Forms

/-! ### Arithmetic: the two classes -/

section Classes

variable {s : State} {dst r : Reg} {b : Source}

theorem source64_of_none (h : s.regs.get r = none) : source64 s (.x r) = .error (.uninitRegister r) :=
  readReg_of_none h

theorem source32_of_none (h : s.regs.get r = none) : source32 s (.x r) = .error (.uninitRegister r) :=
  first32_of_none h

/-- The low half of a register as the statements write it (R27). -/
theorem low32_eq_extractLsb' (v : Word) : low32 v = v.extractLsb' 0 32 :=
  BitVec.setWidth_eq_extractLsb' (by decide)

/-- Zero extension keeps the number (R112). -/
theorem zext32_eq_ofNat (v : BitVec 32) : zext32 v = BitVec.ofNat 64 v.toNat := (BitVec.ofNat_toNat 64 v).symm

/-- Class `BPF_ALU64` on operands that can be read. -/
theorem alu64_of_operands {op : AluOp} {x y : Word} (hx : s.regs.get dst = some x) (hy : source64 s b = .ok y) :
    alu64 op dst b s = (op s.params x y).map (put s dst) := by
  unfold alu64 first64
  rw [readReg_of_some hx, hy]
  change (op s.params x y >>= _) = _
  cases op s.params x y <;> rfl

/-- Class `BPF_ALU` on operands that can be read: the low halves, the result zero-extended (R112). -/
theorem alu32_of_operands {op : AluOp} {x : Word} {y : BitVec 32} (hx : s.regs.get dst = some x)
    (hy : source32 s b = .ok y) :
    alu32 op dst b s = (op s.params (x.extractLsb' 0 32) y).map fun z => put s dst (BitVec.ofNat 64 z.toNat) := by
  unfold alu32
  rw [first32_of_some hx, hy, low32_eq_extractLsb']
  simp only [← zext32_eq_ofNat]
  change (op s.params (x.extractLsb' 0 32) y >>= _) = _
  cases op s.params (x.extractLsb' 0 32) y <;> rfl

/-- A body that examines the destination first and then the source (R118). -/
structure ReadsBoth (body : Reg → Source → State → Except Fault State) : Prop where
  dst : ∀ s d b, s.regs.get d = none → body d b s = .error (.uninitRegister d)
  src : ∀ s d r a, s.regs.get d = some a → s.regs.get r = none → body d (.x r) s = .error (.uninitRegister r)

theorem readsBoth_alu64 (op : AluOp) : ReadsBoth (alu64 op) where
  dst s d b h := by unfold alu64 first64; rw [readReg_of_none h]; rfl
  src s d r a hd h := by unfold alu64 first64; rw [readReg_of_some hd, source64_of_none h]; rfl

theorem readsBoth_alu32 (op : AluOp) : ReadsBoth (alu32 op) where
  dst s d b h := by unfold alu32; rw [first32_of_none h]; rfl
  src s d r a hd h := by unfold alu32; rw [first32_of_some hd, source32_of_none h]; rfl

theorem FormK.unread {opcode : BitVec 8} {mk : Reg → Imm → Instr} {body : Reg → Source → State → Except Fault State}
    (h : FormK opcode mk body) (hb : ReadsBoth body) : UnreadK mk :=
  fun s dst imm hd hn => by rw [(h.means dst imm).exec_eq hd, hb.dst s dst _ hn]; rfl

theorem FormX.unread {opcode : BitVec 8} {mk : Reg → Reg → Instr} {body : Reg → Source → State → Except Fault State}
    (h : FormX opcode mk body) (hb : ReadsBoth body) : UnreadX mk :=
  ⟨fun s dst src hd hn => by rw [(h.means dst src).exec_eq hd, hb.dst s dst _ hn]; rfl,
    fun s dst src a hd ha hn => by rw [(h.means dst src).exec_eq hd, hb.src s dst src a ha hn]; rfl⟩

end Classes

/-! ### Arithmetic: from the operation to the end of the instruction -/

/-- The operation on 64-bit operands for which `pre` holds ends the instruction with `eff`. -/
def Ends64 (op : Params → Word → Word → Except Fault Word) (pre : Params → Word → Word → Prop)
    (eff : State → Reg → Word → Word → State) : Prop :=
  ∀ s dst (a b : Word), pre s.params a b → settle s ((op s.params a b).map (put s dst)) = eff s dst a b

/-- The operation on 32-bit operands for which `pre` holds ends the instruction with `eff`. -/
def Ends32 (op : Params → BitVec 32 → BitVec 32 → Except Fault (BitVec 32))
    (pre : Params → BitVec 32 → BitVec 32 → Prop) (eff : State → Reg → BitVec 32 → BitVec 32 → State) :
    Prop :=
  ∀ s dst (a b : BitVec 32), pre s.params a b →
    settle s ((op s.params a b).map fun z => put s dst (BitVec.ofNat 64 z.toNat)) = eff s dst a b

section Wide

variable {op : Params → Word → Word → Except Fault Word} {pre : Params → Word → Word → Prop}
  {eff : State → Reg → Word → Word → State} {f : Word → Word → Word} {e : Fault}

theorem ends64_puts (h : ∀ p a b, pre p a b → op p a b = .ok (f a b)) : Ends64 op pre (puts f) :=
  fun s dst a b hp => by rw [h s.params a b hp]; rfl

theorem ends64_fails (h : ∀ p a b, pre p a b → op p a b = .error e) : Ends64 op pre (fails e) :=
  fun s dst a b hp => by rw [h s.params a b hp]; rfl

theorem FormK.ends64 {opcode : BitVec 8} {mk : Reg → Imm → Instr} {op : AluOp} (h : FormK opcode mk (alu64 op))
    (he : Ends64 op pre eff) : EndsK64 mk pre eff := fun s dst imm a hd ha hp => by
  rw [(h.means dst imm).exec_eq hd, alu64_of_operands ha rfl]
  exact congrArg _ (he s dst a _ hp)

theorem FormX.ends64 {opcode : BitVec 8} {mk : Reg → Reg → Instr} {op : AluOp} (h : FormX opcode mk (alu64 op))
    (he : Ends64 op pre eff) : EndsX64 mk pre eff := fun s dst src a b hd ha hb hp => by
  rw [(h.means dst src).exec_eq hd, alu64_of_operands ha (source64_x hb), he s dst a b hp]

end Wide

section Narrow

variable {op : Params → BitVec 32 → BitVec 32 → Except Fault (BitVec 32)}
  {pre : Params → BitVec 32 → BitVec 32 → Prop} {eff : State → Reg → BitVec 32 → BitVec 32 → State}
  {f : BitVec 32 → BitVec 32 → BitVec 32} {e : Fault}

theorem ends32_putsLow (h : ∀ p a b, pre p a b → op p a b = .ok (f a b)) : Ends32 op pre (putsLow f) :=
  fun s dst a b hp => by rw [h s.params a b hp]; rfl

theorem ends32_fails (h : ∀ p a b, pre p a b → op p a b = .error e) : Ends32 op pre (fails e) :=
  fun s dst a b hp => by rw [h s.params a b hp]; rfl

theorem FormK.ends32 {opcode : BitVec 8} {mk : Reg → Imm → Instr} {op : AluOp} (h : FormK opcode mk (alu32 op))
    (he : Ends32 op pre eff) : EndsK32 mk pre eff := fun s dst imm a hd ha hp => by
  rw [(h.means dst imm).exec_eq hd, alu32_of_operands ha rfl, he s dst _ imm hp]

theorem FormX.ends32 {opcode : BitVec 8} {mk : Reg → Reg → Instr} {op : AluOp} (h : FormX opcode mk (alu32 op))
    (he : Ends32 op pre eff) : EndsX32 mk pre eff := fun s dst src a b hd ha hb hp => by
  rw [(h.means dst src).exec_eq hd, alu32_of_operands ha (source32_x hb), low32_eq_extractLsb', he s dst _ _ hp]

end Narrow

/-- The four forms of an arithmetic operation (R77, R78). -/
structure FourForms (k32 x32 k64 x64 : BitVec 8) (mk32 : Reg → Imm → Instr) (mx32 : Reg → Reg → Instr)
    (mk64 : Reg → Imm → Instr) (mx64 : Reg → Reg → Instr) (op : AluOp) : Prop where
  k32 : FormK k32 mk32 (alu32 op)
  x32 : FormX x32 mx32 (alu32 op)
  k64 : FormK k64 mk64 (alu64 op)
  x64 : FormX x64 mx64 (alu64 op)

section Operations

variable {k32 x32 k64 x64 : BitVec 8} {mk32 mk64 : Reg → Imm → Instr} {mx32 mx64 : Reg → Reg → Instr} {op : AluOp}
  {f g : Total} {ok : {w : Nat} → BitVec w → Prop} {faulty : Params → Prop} {e : Fault}

/-- An operation that answers `f` on all operands. -/
theorem FourForms.totalOp (h : FourForms k32 x32 k64 x64 mk32 mx32 mk64 mx64 op)
    (hf : ∀ {w : Nat} p (a b : BitVec w), op p a b = .ok (f a b)) :
    TotalOp k32 x32 k64 x64 mk32 mx32 mk64 mx64 f := by
  have h32 : Ends32 op Always (putsLow f) := ends32_putsLow fun p a b _ => hf p a b
  have h64 : Ends64 op Always (puts f) := ends64_puts fun p a b _ => hf p a b
  exact ⟨⟨h.k32.coded, h.k32.ends32 h32, h.k32.unread (readsBoth_alu32 op)⟩,
    ⟨h.x32.coded, h.x32.ends32 h32, h.x32.unread (readsBoth_alu32 op)⟩,
    ⟨h.k64.coded, h.k64.ends64 h64, h.k64.unread (readsBoth_alu64 op)⟩,
    ⟨h.x64.coded, h.x64.ends64 h64, h.x64.unread (readsBoth_alu64 op)⟩⟩

/-- An operation that answers `f` where `ok` holds of the second operand, and elsewhere raises `e` or answers `g`. -/
theorem FourForms.partialOp (h : FourForms k32 x32 k64 x64 mk32 mx32 mk64 mx64 op)
    (hf : ∀ {w : Nat} p (a b : BitVec w), ok b → op p a b = .ok (f a b))
    (he : ∀ {w : Nat} p (a b : BitVec w), ¬ ok b ∧ faulty p → op p a b = .error e)
    (hg : ∀ {w : Nat} p (a b : BitVec w), ¬ ok b ∧ ¬ faulty p → op p a b = .ok (g a b)) :
    PartialOp k32 x32 k64 x64 mk32 mx32 mk64 mx64 ok f faulty e g := by
  have f32 : Ends32 op (fun _ _ b => ok b) (putsLow f) := ends32_putsLow hf
  have e32 : Ends32 op (fun p _ b => ¬ ok b ∧ faulty p) (fails e) := ends32_fails he
  have g32 : Ends32 op (fun p _ b => ¬ ok b ∧ ¬ faulty p) (putsLow g) := ends32_putsLow hg
  have f64 : Ends64 op (fun _ _ b => ok b) (puts f) := ends64_puts hf
  have e64 : Ends64 op (fun p _ b => ¬ ok b ∧ faulty p) (fails e) := ends64_fails he
  have g64 : Ends64 op (fun p _ b => ¬ ok b ∧ ¬ faulty p) (puts g) := ends64_puts hg
  exact
    ⟨⟨h.k32.coded, h.k32.unread (readsBoth_alu32 op), h.k32.ends32 f32, h.k32.ends32 e32, h.k32.ends32 g32⟩,
    ⟨h.x32.coded, h.x32.unread (readsBoth_alu32 op), h.x32.ends32 f32, h.x32.ends32 e32, h.x32.ends32 g32⟩,
    ⟨h.k64.coded, h.k64.unread (readsBoth_alu64 op), h.k64.ends64 f64, h.k64.ends64 e64, h.k64.ends64 g64⟩,
    ⟨h.x64.coded, h.x64.unread (readsBoth_alu64 op), h.x64.ends64 f64, h.x64.ends64 e64, h.x64.ends64 g64⟩⟩

end Operations

/-! ### The operations on numbers and on bits -/

section Numbers

variable {w : Nat} (p : Params) (a b : BitVec w)

theorem opAdd_eq : opAdd p a b = .ok (BitVec.ofNat w (a.toNat + b.toNat)) := by
  rw [opAdd, BitVec.add_def]

theorem opSub_eq : opSub p a b = .ok (BitVec.ofInt w ((a.toNat : Int) - b.toNat)) := by
  rw [opSub, Int.sub_eq_add_neg, BitVec.ofInt_add, BitVec.ofInt_neg, BitVec.ofInt_natCast, BitVec.ofInt_natCast,
    BitVec.ofNat_toNat, BitVec.ofNat_toNat, BitVec.setWidth_eq, BitVec.setWidth_eq, BitVec.sub_eq_add_neg]

theorem opMul_eq : opMul p a b = .ok (BitVec.ofNat w (a.toNat * b.toNat)) := by
  rw [opMul, BitVec.ofNat_mul, BitVec.ofNat_toNat, BitVec.ofNat_toNat, BitVec.setWidth_eq, BitVec.setWidth_eq]

/-- A word whose bit `k` is `f k` is the one made of the bits `f`. -/
theorem eq_ofFnLE {c : BitVec w} {f : Fin w → Bool} (h : ∀ k : Fin w, c.getLsbD k = f k) : c = BitVec.ofFnLE f :=
  BitVec.eq_of_getLsbD_eq fun k hk => by rw [BitVec.getLsbD_ofFnLE, dif_pos hk]; exact h ⟨k, hk⟩

theorem opOr_eq : opOr p a b = .ok (BitVec.ofFnLE fun k => a.getLsbD k || b.getLsbD k) := by
  rw [opOr, eq_ofFnLE fun _ => BitVec.getLsbD_or]

theorem opAnd_eq : opAnd p a b = .ok (BitVec.ofFnLE fun k => a.getLsbD k && b.getLsbD k) := by
  rw [opAnd, eq_ofFnLE fun _ => BitVec.getLsbD_and]

theorem opXor_eq : opXor p a b = .ok (BitVec.ofFnLE fun k => Bool.xor (a.getLsbD k) (b.getLsbD k)) := by
  rw [opXor, eq_ofFnLE fun _ => BitVec.getLsbD_xor]

end Numbers

/-! ### `div` and `mod` (R114, R115) -/

section Division

variable {w : Nat} {p : Params} {a b : BitVec w}

theorem eq_zero_iff_toNat : b = 0#w ↔ b.toNat = 0 := by
  rw [← BitVec.toNat_inj, BitVec.toNat_ofNat, Nat.zero_mod]

theorem opDiv_of_ne_zero (hb : b.toNat ≠ 0) : opDiv p a b = .ok (BitVec.ofNat w (a.toNat / b.toNat)) := by
  rw [opDiv, if_neg (mt eq_zero_iff_toNat.1 hb), BitVec.udiv_eq, BitVec.udiv_def]

theorem opMod_of_ne_zero (hb : b.toNat ≠ 0) : opMod p a b = .ok (BitVec.ofNat w (a.toNat % b.toNat)) := by
  rw [opMod, if_neg (mt eq_zero_iff_toNat.1 hb), BitVec.umod_eq, BitVec.umod_def]

theorem opDiv_fault (hb : b.toNat = 0) (hp : p.divByZero = .fault) : opDiv p a b = .error .divideByZero := by
  rw [opDiv, if_pos (eq_zero_iff_toNat.2 hb), hp]

theorem opMod_fault (hb : b.toNat = 0) (hp : p.divByZero = .fault) : opMod p a b = .error .divideByZero := by
  rw [opMod, if_pos (eq_zero_iff_toNat.2 hb), hp]

theorem divByZero_of_ne_fault (hp : p.divByZero ≠ .fault) : p.divByZero = .zeroAndKeep := by
  cases h : p.divByZero with
  | fault => exact absurd h hp
  | zeroAndKeep => rfl

theorem opDiv_zeroAndKeep (hb : b.toNat = 0) (hp : p.divByZero = .zeroAndKeep) : opDiv p a b = .ok 0#w := by
  rw [opDiv, if_pos (eq_zero_iff_toNat.2 hb), hp]

theorem opMod_zeroAndKeep (hb : b.toNat = 0) (hp : p.divByZero = .zeroAndKeep) : opMod p a b = .ok a := by
  rw [opMod, if_pos (eq_zero_iff_toNat.2 hb), hp]

end Division

/-! ### `lsh`, `rsh` and `arsh` (R114, R116) -/

section Shifts

variable {w : Nat} {p : Params} {a b : BitVec w} {n : Nat}

theorem shiftAmount_of_lt (hb : b.toNat < w) : shiftAmount p b = .ok b.toNat := if_pos hb

theorem shiftAmount_fault (hb : ¬ b.toNat < w) (hp : p.shiftOverflow = .fault) :
    shiftAmount p b = .error .shiftOutOfRange := by
  rw [shiftAmount, if_neg hb, hp]

theorem shiftAmount_mask (hb : ¬ b.toNat < w) (hp : p.shiftOverflow ≠ .fault) :
    shiftAmount p b = .ok (b.toNat % w) := by
  rw [shiftAmount, if_neg hb]
  cases h : p.shiftOverflow with
  | fault => exact absurd h hp
  | mask => rfl

theorem opLsh_of_amount (h : shiftAmount p b = .ok n) : opLsh p a b = .ok (BitVec.ofNat w (a.toNat * 2 ^ n)) := by
  have hval : a <<< n = BitVec.ofNat w (a.toNat * 2 ^ n) :=
    BitVec.eq_of_toNat_eq (by rw [BitVec.toNat_shiftLeft, BitVec.toNat_ofNat, Nat.shiftLeft_eq])
  rw [opLsh, h, ← hval]; rfl

theorem opRsh_of_amount (h : shiftAmount p b = .ok n) : opRsh p a b = .ok (BitVec.ofNat w (a.toNat / 2 ^ n)) := by
  have hval : a >>> n = BitVec.ofNat w (a.toNat / 2 ^ n) := by
    rw [← Nat.shiftRight_eq_div_pow, ← BitVec.toNat_ushiftRight, BitVec.ofNat_toNat, BitVec.setWidth_eq]
  rw [opRsh, h, ← hval]; rfl

/-- The division of an integer rounds down, as the arithmetic shift does (R114). -/
theorem opArsh_of_amount (h : shiftAmount p b = .ok n) : opArsh p a b = .ok (BitVec.ofInt w (a.toInt / 2 ^ n)) := by
  have hval : a.sshiftRight n = BitVec.ofInt w (a.toInt / 2 ^ n) := by
    have hint : (a.sshiftRight n).toInt = a.toInt / 2 ^ n := by
      rw [BitVec.toInt_sshiftRight, Int.shiftRight_eq_div_pow, Nat.cast_pow, Nat.cast_ofNat]
    rw [← hint, BitVec.ofInt_toInt]
  rw [opArsh, h, ← hval]; rfl

theorem opLsh_of_fault {e : Fault} (h : shiftAmount p b = .error e) : opLsh p a b = .error e := by
  rw [opLsh, h]; rfl

theorem opRsh_of_fault {e : Fault} (h : shiftAmount p b = .error e) : opRsh p a b = .error e := by
  rw [opRsh, h]; rfl

theorem opArsh_of_fault {e : Fault} (h : shiftAmount p b = .error e) : opArsh p a b = .error e := by
  rw [opArsh, h]; rfl

end Shifts

/-! ### The opcodes of the operations

Each row of the table is a computation: the format of the opcode, the tables of R25 and R91, and the arm of `exec`. -/

theorem forms_add : FourForms 0x04 0x0c 0x07 0x0f .add32K .add32X .add64K .add64X opAdd := by
  constructor <;> exact ⟨(formOf_eq_or _).trans rfl, fun _ _ => ⟨⟨rfl, rfl, fun _ => rfl⟩, rfl⟩⟩

theorem forms_sub : FourForms 0x14 0x1c 0x17 0x1f .sub32K .sub32X .sub64K .sub64X opSub := by
  constructor <;> exact ⟨(formOf_eq_or _).trans rfl, fun _ _ => ⟨⟨rfl, rfl, fun _ => rfl⟩, rfl⟩⟩

theorem forms_mul : FourForms 0x24 0x2c 0x27 0x2f .mul32K .mul32X .mul64K .mul64X opMul := by
  constructor <;> exact ⟨(formOf_eq_or _).trans rfl, fun _ _ => ⟨⟨rfl, rfl, fun _ => rfl⟩, rfl⟩⟩

theorem forms_or : FourForms 0x44 0x4c 0x47 0x4f .or32K .or32X .or64K .or64X opOr := by
  constructor <;> exact ⟨(formOf_eq_or _).trans rfl, fun _ _ => ⟨⟨rfl, rfl, fun _ => rfl⟩, rfl⟩⟩

theorem forms_and : FourForms 0x54 0x5c 0x57 0x5f .and32K .and32X .and64K .and64X opAnd := by
  constructor <;> exact ⟨(formOf_eq_or _).trans rfl, fun _ _ => ⟨⟨rfl, rfl, fun _ => rfl⟩, rfl⟩⟩

theorem forms_xor : FourForms 0xa4 0xac 0xa7 0xaf .xor32K .xor32X .xor64K .xor64X opXor := by
  constructor <;> exact ⟨(formOf_eq_or _).trans rfl, fun _ _ => ⟨⟨rfl, rfl, fun _ => rfl⟩, rfl⟩⟩

theorem forms_div : FourForms 0x34 0x3c 0x37 0x3f .div32K .div32X .div64K .div64X opDiv := by
  constructor <;> exact ⟨(formOf_eq_or _).trans rfl, fun _ _ => ⟨⟨rfl, rfl, fun _ => rfl⟩, rfl⟩⟩

theorem forms_mod : FourForms 0x94 0x9c 0x97 0x9f .mod32K .mod32X .mod64K .mod64X opMod := by
  constructor <;> exact ⟨(formOf_eq_or _).trans rfl, fun _ _ => ⟨⟨rfl, rfl, fun _ => rfl⟩, rfl⟩⟩

theorem forms_lsh : FourForms 0x64 0x6c 0x67 0x6f .lsh32K .lsh32X .lsh64K .lsh64X opLsh := by
  constructor <;> exact ⟨(formOf_eq_or _).trans rfl, fun _ _ => ⟨⟨rfl, rfl, fun _ => rfl⟩, rfl⟩⟩

theorem forms_rsh : FourForms 0x74 0x7c 0x77 0x7f .rsh32K .rsh32X .rsh64K .rsh64X opRsh := by
  constructor <;> exact ⟨(formOf_eq_or _).trans rfl, fun _ _ => ⟨⟨rfl, rfl, fun _ => rfl⟩, rfl⟩⟩

theorem forms_arsh : FourForms 0xc4 0xcc 0xc7 0xcf .arsh32K .arsh32X .arsh64K .arsh64X opArsh := by
  constructor <;> exact ⟨(formOf_eq_or _).trans rfl, fun _ _ => ⟨⟨rfl, rfl, fun _ => rfl⟩, rfl⟩⟩

/-- Settles O32: addition, subtraction and multiplication of words are those of numbers modulo `2 ^ w`. -/
theorem addSubMulModuloWidth : Obligations.AddSubMulModuloWidth :=
  ⟨forms_add.totalOp opAdd_eq, forms_sub.totalOp opSub_eq, forms_mul.totalOp opMul_eq⟩

/-- Settles O33, bit by bit. -/
theorem orAndXorBitByBit : Obligations.OrAndXorBitByBit :=
  ⟨forms_or.totalOp opOr_eq, forms_and.totalOp opAnd_eq, forms_xor.totalOp opXor_eq⟩

/-- Settles O34: a divisor that is not zero, and a zero divisor under either value of `DIV_BY_ZERO`. -/
theorem divModUnsigned : Obligations.DivModUnsigned := by
  refine ⟨forms_div.partialOp (fun _ _ _ => opDiv_of_ne_zero) (fun _ _ _ ⟨hb, hp⟩ => ?_) (fun _ _ _ ⟨hb, hp⟩ => ?_),
    forms_mod.partialOp (fun _ _ _ => opMod_of_ne_zero) (fun _ _ _ ⟨hb, hp⟩ => ?_) (fun _ _ _ ⟨hb, hp⟩ => ?_)⟩ <;>
    rw [not_ne_iff] at hb
  · exact opDiv_fault hb hp
  · rw [opDiv_zeroAndKeep hb (divByZero_of_ne_fault hp), if_pos hb]; rfl
  · exact opMod_fault hb hp
  · rw [opMod_zeroAndKeep hb (divByZero_of_ne_fault hp), if_pos hb]

/-- Settles O35: what the amount is decides what the shift answers. -/
theorem shiftsByAmount : Obligations.ShiftsByAmount :=
  ⟨forms_lsh.partialOp (fun _ _ _ hb => opLsh_of_amount (shiftAmount_of_lt hb))
      (fun _ _ _ ⟨hb, hp⟩ => opLsh_of_fault (shiftAmount_fault hb hp))
      (fun _ _ _ ⟨hb, hp⟩ => opLsh_of_amount (shiftAmount_mask hb hp)),
    forms_rsh.partialOp (fun _ _ _ hb => opRsh_of_amount (shiftAmount_of_lt hb))
      (fun _ _ _ ⟨hb, hp⟩ => opRsh_of_fault (shiftAmount_fault hb hp))
      (fun _ _ _ ⟨hb, hp⟩ => opRsh_of_amount (shiftAmount_mask hb hp)),
    forms_arsh.partialOp (fun _ _ _ hb => opArsh_of_amount (shiftAmount_of_lt hb))
      (fun _ _ _ ⟨hb, hp⟩ => opArsh_of_fault (shiftAmount_fault hb hp))
      (fun _ _ _ ⟨hb, hp⟩ => opArsh_of_amount (shiftAmount_mask hb hp))⟩

/-! ### `mov` (R164 to R167) -/

section Mov

variable (dst : Reg) (b : Source) (s : State)

/-- `mov` reads its source alone (R25). -/
theorem mov64_eq_map : mov64 dst b s = (source64 s b).map (put s dst) := by
  unfold mov64
  cases source64 s b <;> rfl

theorem mov32_eq_map : mov32 dst b s = (source32 s b).map fun y => put s dst (BitVec.ofNat 64 y.toNat) := by
  unfold mov32
  simp only [← zext32_eq_ofNat]
  cases source32 s b <;> rfl

end Mov

/-- The number of the low half of a register (R27). -/
theorem toNat_low32 (v : Word) : (low32 v).toNat = v.toNat % 2 ^ 32 := BitVec.toNat_setWidth 32 v

theorem form_mov32K : FormK 0xb4 .mov32K mov32 :=
  ⟨(formOf_eq_or _).trans rfl, fun _ _ => ⟨⟨rfl, rfl, fun _ => rfl⟩, rfl⟩⟩

theorem form_mov32X : FormX 0xbc .mov32X mov32 :=
  ⟨(formOf_eq_or _).trans rfl, fun _ _ => ⟨⟨rfl, rfl, fun _ => rfl⟩, rfl⟩⟩

theorem form_mov64K : FormK 0xb7 .mov64K mov64 :=
  ⟨(formOf_eq_or _).trans rfl, fun _ _ => ⟨⟨rfl, rfl, fun _ => rfl⟩, rfl⟩⟩

theorem form_mov64X : FormX 0xbf .mov64X mov64 :=
  ⟨(formOf_eq_or _).trans rfl, fun _ _ => ⟨⟨rfl, rfl, fun _ => rfl⟩, rfl⟩⟩

/-- Settles O36: what the source answers is what is written, or the fault that is taken. -/
theorem movStoresSource : Obligations.MovStoresSource := by
  refine ⟨⟨form_mov32K.coded, fun s dst imm hd => ?k32⟩,
    ⟨form_mov32X.coded, fun s dst src b hd hb => ?x32, fun s dst src hd hn => ?x32None⟩,
    ⟨form_mov64K.coded, fun s dst imm hd => ?k64⟩,
    ⟨form_mov64X.coded, fun s dst src b hd hb => ?x64, fun s dst src hd hn => ?x64None⟩⟩
  case k32 => rw [(form_mov32K.means dst imm).exec_eq hd, mov32_eq_map]; rfl
  case x32 => rw [(form_mov32X.means dst src).exec_eq hd, mov32_eq_map, source32_x hb, ← toNat_low32]; rfl
  case x32None => rw [(form_mov32X.means dst src).exec_eq hd, mov32_eq_map, source32_of_none hn]; rfl
  case k64 => rw [(form_mov64K.means dst imm).exec_eq hd, mov64_eq_map]; rfl
  case x64 => rw [(form_mov64X.means dst src).exec_eq hd, mov64_eq_map, source64_x hb]; rfl
  case x64None => rw [(form_mov64X.means dst src).exec_eq hd, mov64_eq_map, source64_of_none hn]; rfl

/-! ### `neg` (R117, R152 to R155) -/

section Neg

variable {dst : Reg} {b : Source} {s : State}

/-- `BPF_NEG` as the source has it: the complement of the source operand, without a read of the destination. -/
theorem neg64_of_sourceLiteral (hp : s.params.negSemantics = .sourceLiteral) :
    neg64 dst b s = (source64 s b).map fun y => put s dst (~~~y) := by
  unfold neg64
  rw [hp]
  cases source64 s b <;> rfl

theorem neg32_of_sourceLiteral (hp : s.params.negSemantics = .sourceLiteral) :
    neg32 dst b s = (source32 s b).map fun y => put s dst (BitVec.ofNat 64 (~~~y).toNat) := by
  unfold neg32
  simp only [hp, ← zext32_eq_ofNat]
  cases source32 s b <;> rfl

/-- `BPF_NEG` as negation: minus the destination, whatever the source is. -/
theorem neg64_of_twosComplement (hp : s.params.negSemantics = .twosComplement) :
    neg64 dst b s = (readReg s dst).map fun x => put s dst (0#64 - x) := by
  unfold neg64 first64
  rw [hp]
  cases readReg s dst <;> rfl

theorem neg32_of_twosComplement (hp : s.params.negSemantics = .twosComplement) :
    neg32 dst b s = (first32 s dst).map fun x => put s dst (BitVec.ofNat 64 (0#32 - x).toNat) := by
  unfold neg32
  simp only [hp, ← zext32_eq_ofNat]
  cases first32 s dst <;> rfl

/-- The complement of an integer modulo `2 ^ w`. -/
theorem not_ofInt {w : Nat} (i : Int) : ~~~ BitVec.ofInt w i = BitVec.ofInt w (-1 - i) := by
  rw [BitVec.not_eq_neg_add, Int.sub_eq_add_neg, BitVec.ofInt_add, BitVec.ofInt_neg, BitVec.ofInt_neg,
    BitVec.ofInt_ofNat, BitVec.sub_eq_add_neg, BitVec.add_comm]

theorem not_eq_ofNat {w : Nat} (v : BitVec w) : ~~~ v = BitVec.ofNat w (2 ^ w - 1 - v.toNat) := by
  rw [← BitVec.toNat_not, BitVec.ofNat_toNat, BitVec.setWidth_eq]

theorem toNat_zero_sub {w : Nat} (v : BitVec w) : (0#w - v).toNat = (2 ^ w - v.toNat) % 2 ^ w := by
  rw [BitVec.zero_sub, BitVec.toNat_neg]

theorem zero_sub_eq_ofNat {w : Nat} (v : BitVec w) : 0#w - v = BitVec.ofNat w (2 ^ w - v.toNat) :=
  BitVec.eq_of_toNat_eq (by rw [toNat_zero_sub, BitVec.toNat_ofNat])

end Neg

section NegForms

variable (dst src : Reg) (imm : Imm)

theorem means_neg32K : Means (.neg32K dst imm) dst (neg32 dst (.k imm)) := ⟨rfl, rfl, fun _ => rfl⟩
theorem means_neg32X : Means (.neg32X dst src) dst (neg32 dst (.x src)) := ⟨rfl, rfl, fun _ => rfl⟩
theorem means_neg64K : Means (.neg64K dst imm) dst (neg64 dst (.k imm)) := ⟨rfl, rfl, fun _ => rfl⟩
theorem means_neg64X : Means (.neg64X dst src) dst (neg64 dst (.x src)) := ⟨rfl, rfl, fun _ => rfl⟩

end NegForms

/-- A condition of two's complement is void under the other reading. -/
theorem of_sourceLiteral {p : Params} {P : Prop} (hp : p.negSemantics = .sourceLiteral) :
    p.negSemantics = .twosComplement → P := by
  rw [hp]; exact nofun

/-- Under `source_literal` a form of `BPF_NEG` at 64 bits ends as its source operand says. -/
theorem Means.exec_neg64 {i : Instr} {dst : Reg} {b : Source} {s : State} (h : Means i dst (neg64 dst b))
    (hd : dst ≠ .r10) (hp : s.params.negSemantics = .sourceLiteral) :
    Machine.exec i s = .next (settle s ((source64 s b).map fun y => put s dst (~~~y))) := by
  rw [h.exec_eq hd (of_sourceLiteral hp), neg64_of_sourceLiteral hp]

/-- Under `source_literal` a form of `BPF_NEG` at 32 bits ends as its source operand says. -/
theorem Means.exec_neg32 {i : Instr} {dst : Reg} {b : Source} {s : State} (h : Means i dst (neg32 dst b))
    (hd : dst ≠ .r10) (hp : s.params.negSemantics = .sourceLiteral) :
    Machine.exec i s =
      .next (settle s ((source32 s b).map fun y => put s dst (BitVec.ofNat 64 (~~~y).toNat))) := by
  rw [h.exec_eq hd (of_sourceLiteral hp), neg32_of_sourceLiteral hp]

/-- Two's complement refuses a register source and an immediate that is not zero: what such a slot would decode to is
no instruction (R91, R117). -/
theorem decode_error_of_extraNegForm {p : Params} {w : Word} {second : Option Word}
    (hp : p.negSemantics = .twosComplement)
    (hw : opcodeField w = 0x8c ∨ opcodeField w = 0x8f ∨
      (opcodeField w = 0x84 ∨ opcodeField w = 0x87) ∧ immField w ≠ 0) : ∃ r, decode p w second = .error r := by
  refine exists_decode_error fun i h => ?_
  have hform := isExtraNegForm_of_wellFormed (wellFormed_of_decode h) hp
  obtain hop | hop | ⟨hop | hop, hm⟩ := hw
  · obtain ⟨_, _, -, -, -, -, -, rfl⟩ := (decode_aluX_iff (mk := .neg32X) (by rw [hop]; rfl)).1 h
    cases hform
  · obtain ⟨_, _, -, -, -, -, -, rfl⟩ := (decode_aluX_iff (mk := .neg64X) (by rw [hop]; rfl)).1 h
    cases hform
  · obtain ⟨_, -, -, -, -, rfl⟩ := (decode_aluK_iff (mk := .neg32K) (by rw [hop]; rfl)).1 h
    exact hm (bne_eq_false_iff_eq.1 hform)
  · obtain ⟨_, -, -, -, -, rfl⟩ := (decode_aluK_iff (mk := .neg64K) (by rw [hop]; rfl)).1 h
    exact hm (bne_eq_false_iff_eq.1 hform)

/-- Settles O37: the coding of the forms, then the source operand under `source_literal`, then the destination under
`twos_complement`. -/
theorem negBothReadings : Obligations.NegBothReadings := by
  refine ⟨fun p second dst imm hd hp => ?codedK, fun p second dst src hd hp => ?codedX,
    fun p second w hp hw => decode_error_of_extraNegForm hp hw, ?refusedK, ?refusedX, fun s dst imm hd hp => ?literalK,
    fun s dst src b hd hp hb => ?literalX, fun s dst src hd hp hn => ?literalNone, fun s dst a hd hp ha => ?minus,
    fun s dst hd hp hn => ?minusNone⟩
  case codedK =>
    have hform : p.negSemantics = .twosComplement → (imm != 0) = false := by
      obtain hp | rfl := hp
      · exact of_sourceLiteral hp
      · exact fun _ => rfl
    exact ⟨decode_packSlot (f := .aluK .neg32K) rfl (.aluK ..) ((means_neg32K dst imm).wellFormed hd hform),
      decode_packSlot (f := .aluK .neg64K) rfl (.aluK ..) ((means_neg64K dst imm).wellFormed hd hform)⟩
  case codedX =>
    have hform {P : Prop} : p.negSemantics = .twosComplement → P := of_sourceLiteral hp
    exact ⟨decode_packSlot (f := .aluX .neg32X) rfl (.aluX ..) ((means_neg32X dst src).wellFormed hd hform),
      decode_packSlot (f := .aluX .neg64X) rfl (.aluX ..) ((means_neg64X dst src).wellFormed hd hform)⟩
  case refusedK =>
    exact List.forall_mem_cons.2 ⟨refuses_aluK (mk := .neg32K) rfl fun _ _ => rfl,
      List.forall_mem_singleton.2 (refuses_aluK (mk := .neg64K) rfl fun _ _ => rfl)⟩
  case refusedX =>
    exact List.forall_mem_cons.2 ⟨refuses_aluX (mk := .neg32X) rfl fun _ _ => rfl,
      List.forall_mem_singleton.2 (refuses_aluX (mk := .neg64X) rfl fun _ _ => rfl)⟩
  case literalK =>
    rw [(means_neg32K dst imm).exec_neg32 hd hp, (means_neg64K dst imm).exec_neg64 hd hp, ← not_ofInt,
      ← BitVec.toNat_not]
    exact ⟨rfl, rfl⟩
  case literalX =>
    rw [(means_neg32X dst src).exec_neg32 hd hp, (means_neg64X dst src).exec_neg64 hd hp, source32_x hb,
      source64_x hb, ← toNat_low32, ← BitVec.toNat_not, ← not_eq_ofNat]
    exact ⟨rfl, rfl⟩
  case literalNone =>
    rw [(means_neg32X dst src).exec_neg32 hd hp, (means_neg64X dst src).exec_neg64 hd hp, source32_of_none hn,
      source64_of_none hn]
    exact ⟨rfl, rfl⟩
  case minus =>
    rw [(means_neg32K dst 0).exec_eq hd fun _ => rfl, (means_neg64K dst 0).exec_eq hd fun _ => rfl,
      neg32_of_twosComplement hp, neg64_of_twosComplement hp, first32_of_some ha, readReg_of_some ha, ← toNat_low32,
      ← toNat_zero_sub, ← zero_sub_eq_ofNat]
    exact ⟨rfl, rfl⟩
  case minusNone =>
    rw [(means_neg32K dst 0).exec_eq hd fun _ => rfl, (means_neg64K dst 0).exec_eq hd fun _ => rfl,
      neg32_of_twosComplement hp, neg64_of_twosComplement hp, first32_of_none hn, readReg_of_none hn]
    exact ⟨rfl, rfl⟩

end Sys2Proof.Machine

/-! The byte swaps (`41_byteswap.md`). Reversing the bytes of a value is settled once as arithmetic on its base-256
digits; the coding, the read of the destination and the end of the instruction are proved once for the six. -/

namespace Sys2Proof.Machine

/-! ### Reversed bytes as a number -/

/-- The number of two runs of digits, one after the other. -/
theorem numLE_append (bs cs : List Byte) : numLE (bs ++ cs) = numLE bs + 256 ^ bs.length * numLE cs := by
  induction bs with
  | nil => simp [numLE]
  | cons b bs ih => simp only [List.cons_append, numLE, ih, List.length_cons]; ring

/-- The `n` low digits from the other end are the number that the statements call reversed (R9). -/
theorem numLE_reverse_splitLE (n : Nat) (v : Word) : numLE (splitLE n v).reverse = reversed n v.toNat := by
  induction n generalizing v with
  | zero => rfl
  | succ n ih =>
    have hrest : (v >>> 8).toNat = v.toNat / 256 := by
      rw [BitVec.toNat_ushiftRight, Nat.shiftRight_eq_div_pow]
    have hlow : numLE [v.setWidth 8] = v.toNat % 256 := BitVec.toNat_setWidth 8 v
    rw [splitLE, List.reverse_cons, numLE_append, ih, hlow, hrest, List.length_reverse, splitLE_length, reversed]
    ring

/-- The reversal of up to eight bytes, as a number (R9, R181). -/
theorem bswap_eq_ofNat {n : Nat} (v : Word) (h : n ≤ 8) : bswap n v = BitVec.ofNat 64 (reversed n v.toNat) := by
  have hjoin : (bswap n v).toNat = reversed n v.toNat := by
    rw [bswap, joinLE_toNat _ (by simpa using h), numLE_reverse_splitLE]
  rw [← hjoin, BitVec.ofNat_toNat, BitVec.setWidth_eq]

/-! ### What decodes and what is refused -/

/-- What format `END` refuses, whatever width `imm` selects (R86, R91). -/
theorem refuses_byteSwap {op : BitVec 8} {pick : Imm → Option (Reg → Instr)} (hf : formOf op = some (.byteSwap pick)) :
    Refuses op (fun w => srcField w ≠ 0 ∨ offField w ≠ 0 ∨ 10 ≤ (dstField w).toNat) := by
  rintro p w second rfl hbad
  refine exists_decode_error fun i h => ?_
  obtain ⟨d, mk, hd, hn, hs, ho, -⟩ := (decode_byteSwap_iff hf).1 h
  have hlt := field_lt_ten hn
  obtain hb | hb | hb := hbad
  · exact hb hs
  · exact hb ho
  · rw [hd] at hb; omega

/-- The instructions `mk dst` have the opcode `op`, are selected by `imm`, and swap `n` bytes to the order
`target`. -/
structure FormEnd (op : BitVec 8) (imm : Imm) (mk : Reg → Instr) (target : Endian) (n : Nat) : Prop where
  format : ∃ pick, formOf op = some (.byteSwap pick) ∧ pick imm = some mk
  means : ∀ dst, MeansAlways (mk dst) dst (byteSwap target n dst)

section Swap

variable {op : BitVec 8} {imm : Imm} {mk : Reg → Instr} {target : Endian} {n : Nat}

theorem FormEnd.coded (h : FormEnd op imm mk target n) : CodedEnd op imm mk := by
  obtain ⟨pick, hf, hpick⟩ := h.format
  exact ⟨fun p _ dst hd => decode_packSlot hf (.byteSwap _ _ _ _ _ hpick hd) ((h.means dst).wellFormed hd p),
    refuses_byteSwap hf⟩

/-! ### What is written -/

variable {s : State} {dst : Reg} {a : Word}

/-- A byte swap of a destination that can be read. -/
theorem FormEnd.exec_of_some (h : FormEnd op imm mk target n) (hd : dst ≠ .r10) (ha : s.regs.get dst = some a) :
    exec (mk dst) s = .next (put s dst (swapTo target n s.params.hostEndian a)) := by
  rw [(h.means dst).exec_eq hd, byteSwap_eq_ok.2 ⟨a, ha, rfl⟩]
  rfl

/-- A byte swap of a destination that holds `novalue` (R26). -/
theorem FormEnd.exec_of_none (h : FormEnd op imm mk target n) (hd : dst ≠ .r10) (hn : s.regs.get dst = none) :
    exec (mk dst) s = .next (raise s (.uninitRegister dst)) := by
  rw [(h.means dst).exec_eq hd, byteSwap, readReg_of_none hn]
  rfl

/-- On a host of the target order the low bytes stay as they stand (R181). -/
theorem swapTo_of_eq {host : Endian} (hn : n ≤ 8) (he : host = target) :
    swapTo target n host a = BitVec.ofNat 64 (a.toNat % 256 ^ n) := by
  rw [swapTo, if_pos he.symm, lowBytes_eq_ofNat a hn, pow_mul]
  rfl

/-- On a host of the other order the low bytes are reversed (R181). -/
theorem swapTo_of_ne {host : Endian} (hn : n ≤ 8) (he : host ≠ target) :
    swapTo target n host a = BitVec.ofNat 64 (reversed n a.toNat) := by
  rw [swapTo, if_neg he.symm, bswap_eq_ofNat a hn]

theorem FormEnd.swapRule (h : FormEnd op imm mk target n) (hn : n ≤ 8) : SwapRule op imm mk target n := by
  refine ⟨h.coded, fun s dst a hd ha he => ?same, fun s dst a hd ha he => ?other, fun s dst => h.exec_of_none⟩
  case same => rw [h.exec_of_some hd ha, swapTo_of_eq hn he]
  case other => rw [h.exec_of_some hd ha, swapTo_of_ne hn he]

end Swap

/-! ### The six byte swaps (R183 to R188) -/

/-- A width of `BPF_TO_LE`, by the `imm` that selects it. -/
theorem formEnd_le {imm : Imm} {mk : Reg → Instr} {n : Nat} (hpick : pickLe imm = some mk)
    (hm : ∀ dst, MeansAlways (mk dst) dst (byteSwap .little n dst)) : FormEnd 0xd4 imm mk .little n :=
  ⟨⟨pickLe, (formOf_eq_or _).trans rfl, hpick⟩, hm⟩

/-- A width of `BPF_TO_BE`, by the `imm` that selects it. -/
theorem formEnd_be {imm : Imm} {mk : Reg → Instr} {n : Nat} (hpick : pickBe imm = some mk)
    (hm : ∀ dst, MeansAlways (mk dst) dst (byteSwap .big n dst)) : FormEnd 0xdc imm mk .big n :=
  ⟨⟨pickBe, (formOf_eq_or _).trans rfl, hpick⟩, hm⟩

theorem formEnd_le16 : FormEnd 0xd4 16 .le16 .little 2 := formEnd_le rfl fun _ => ⟨⟨rfl, rfl, fun _ => rfl⟩, rfl⟩
theorem formEnd_le32 : FormEnd 0xd4 32 .le32 .little 4 := formEnd_le rfl fun _ => ⟨⟨rfl, rfl, fun _ => rfl⟩, rfl⟩
theorem formEnd_le64 : FormEnd 0xd4 64 .le64 .little 8 := formEnd_le rfl fun _ => ⟨⟨rfl, rfl, fun _ => rfl⟩, rfl⟩
theorem formEnd_be16 : FormEnd 0xdc 16 .be16 .big 2 := formEnd_be rfl fun _ => ⟨⟨rfl, rfl, fun _ => rfl⟩, rfl⟩
theorem formEnd_be32 : FormEnd 0xdc 32 .be32 .big 4 := formEnd_be rfl fun _ => ⟨⟨rfl, rfl, fun _ => rfl⟩, rfl⟩
theorem formEnd_be64 : FormEnd 0xdc 64 .be64 .big 8 := formEnd_be rfl fun _ => ⟨⟨rfl, rfl, fun _ => rfl⟩, rfl⟩

/-- Settles O38: each of the six is a `FormEnd` of at most eight bytes, and `FormEnd.swapRule` says the rest. -/
theorem byteSwaps : Obligations.ByteSwaps :=
  ⟨formEnd_le16.swapRule (by decide), formEnd_le32.swapRule (by decide), formEnd_le64.swapRule (by decide),
    formEnd_be16.swapRule (by decide), formEnd_be32.swapRule (by decide), formEnd_be64.swapRule (by decide)⟩

end Sys2Proof.Machine

/-! The jumps, the call and the exit (`42_jump.md`). What a condition says of its operands is settled once for every
width, and a conditional jump once for each class and source; the eleven codes differ in their rows of the table
alone. A call is settled by what the called function answers. -/

namespace Sys2Proof.Machine

/-! ### Instructions that are well-formed whatever the parameters are -/

/-- `i` is well-formed under every parameter and means `body`. -/
structure MeansPlain (i : Instr) (body : State → Except Fault State) : Prop where
  wellFormed : ∀ p, i.WellFormed p
  exec : ∀ s, exec i s = attempt i s body

/-- An instruction that does not write R10, has no version tag and is no form of `BPF_NEG` that two's complement rules
out is well-formed (R91). -/
theorem meansPlain_of_not_mem {i : Instr} {body : State → Except Fault State} (hi : .r10 ∉ i.written)
    (hv : i.version = none) (hn : i.isExtraNegForm = false) (he : ∀ s, exec i s = attempt i s body) :
    MeansPlain i body :=
  ⟨fun _ => wellFormed_iff.2 ⟨hi, by simp [hv], by simp [hn]⟩, he⟩

section Plain

variable {i : Instr} {body : State → Except Fault State} {s t : State} {f : Fault}

theorem MeansPlain.exec_ok (h : MeansPlain i body) (hb : body s = .ok t) : Machine.exec i s = .next t := by
  rw [h.exec, attempt_ok (h.wellFormed _) hb]

theorem MeansPlain.exec_error (h : MeansPlain i body) (hb : body s = .error f) :
    Machine.exec i s = .next (raise s f) := by
  rw [h.exec, attempt_error (h.wellFormed _) hb]

end Plain

/-! ### `ja` (R199) -/

theorem means_ja (off : Off) : MeansPlain (.ja off) (jumpAlways off) :=
  meansPlain_of_not_mem nofun rfl rfl fun _ => rfl

/-- What format `JA` refuses (R86). -/
theorem refuses_ja {op : BitVec 8} {mk : Off → Instr} (hf : formOf op = some (.ja mk)) :
    Refuses op (fun w => dstField w ≠ 0 ∨ srcField w ≠ 0 ∨ immField w ≠ 0) := by
  rintro p w second rfl hbad
  refine exists_decode_error fun i h => ?_
  obtain ⟨hd, hs, hm, -⟩ := (decode_ja_iff hf).1 h
  simp [hd, hs, hm] at hbad

/-- A reserved opcode is refused whatever the other fields are (R93). -/
theorem refuses_reserved {op : BitVec 8} {bad : Word → Prop} (h : op ∈ reservedOpcodes) : Refuses op bad := by
  rintro p w second rfl -
  exact ⟨.reservedOpcode, (Sys2Proof.reservedOpcodes p w second).2 h⟩

/-- A target that names no instruction faults where it is fetched (R29, R195). -/
theorem step_goTo_of_outOfRange {s : State} {off : Off} (hrun : s.outcome = .running)
    (h : s.pc + 1 + off.toInt < 0 ∨ (s.program.length : Int) ≤ s.pc + 1 + off.toInt ∨
      isSecondSlot s.program (s.pc + 1 + off.toInt).toNat = true) :
    step (goTo s off) = .next (raise (goTo s off) (.pcOutOfRange (s.pc + 1 + off.toInt))) :=
  step_of_fetch_error (s := goTo s off) hrun (fetch_of_outOfRange h)

end Sys2Proof.Machine

namespace Sys2Proof

open Machine (means_ja refuses_ja refuses_reserved step_goTo_of_outOfRange)

/-- Settles O39: the jump itself cannot fail, and its target is looked at by the fetch of the next step alone. -/
theorem jumpAlways : Obligations.JumpAlways := by
  refine ⟨fun p second off => ?coded, refuses_ja (mk := .ja) rfl, fun s off => (means_ja off).exec_ok rfl,
    fun s off => step_goTo_of_outOfRange, fun op hop => refuses_reserved ?reserved⟩
  case coded => exact decode_packSlot (f := .ja .ja) rfl (.ja ..) ((means_ja off).wellFormed p)
  case reserved =>
    have hsub : [0x0d, 0x06, 0x0e] ⊆ Machine.reservedOpcodes := by decide
    exact hsub hop

end Sys2Proof

namespace Sys2Proof.Machine

/-! ### The conditions (R193) -/

/-- What a jump code says of its operands: unsigned comparisons of the numbers, signed ones in two's complement, and
for `set` a bit that both have. -/
def Cond.Holds {w : Nat} (c : Cond) (a b : BitVec w) : Prop :=
  match c with
  | .eq => a = b
  | .ne => a ≠ b
  | .set => ∃ k, a.getLsbD k = true ∧ b.getLsbD k = true
  | .gt => b.toNat < a.toNat
  | .ge => b.toNat ≤ a.toNat
  | .lt => a.toNat < b.toNat
  | .le => a.toNat ≤ b.toNat
  | .sgt => b.toInt < a.toInt
  | .sge => b.toInt ≤ a.toInt
  | .slt => a.toInt < b.toInt
  | .sle => a.toInt ≤ b.toInt

/-- The bitwise and of two words is not zero where they have a bit in common. -/
theorem and_ne_zero_iff {w : Nat} {a b : BitVec w} :
    a &&& b ≠ 0#w ↔ ∃ k, a.getLsbD k = true ∧ b.getLsbD k = true := by
  constructor
  · intro hne
    by_contra hk
    refine hne (BitVec.eq_of_getLsbD_eq fun k _ => ?_)
    rw [BitVec.getLsbD_zero, BitVec.getLsbD_and, Bool.and_eq_false_imp]
    exact fun ha => Bool.eq_false_of_not_eq_true fun hb => hk ⟨k, ha, hb⟩
  · rintro ⟨k, ha, hb⟩ hzero
    have hbit : (a &&& b).getLsbD k = true := by rw [BitVec.getLsbD_and, ha, hb]; rfl
    rw [hzero, BitVec.getLsbD_zero] at hbit
    cases hbit

/-- The machine decides the condition. -/
theorem Cond.holds_iff {w : Nat} {c : Cond} {a b : BitVec w} : c.holds a b = true ↔ c.Holds a b := by
  cases c with
  | eq => exact beq_iff_eq
  | ne => exact bne_iff_ne
  | set => exact bne_iff_ne.trans and_ne_zero_iff
  | gt | ge | lt | le | sgt | sge | slt | sle => exact decide_eq_true_iff

/-! ### Conditional jumps: what decodes and what is refused -/

section Coding

variable {op : BitVec 8}

/-- What format `JCC_K` refuses; the destination is read alone and may be R10 (R86, R192). -/
theorem refuses_jccK {mk : Reg → Imm → Off → Instr} (hf : formOf op = some (.jccK mk)) :
    Refuses op (fun w => srcField w ≠ 0 ∨ 10 < (dstField w).toNat) := by
  rintro p w second rfl hbad
  refine exists_decode_error fun i h => ?_
  obtain ⟨d, hd, hs, -⟩ := (decode_jccK_iff hf).1 h
  have hle := field_le_ten d
  obtain hb | hb := hbad
  · exact hb hs
  · rw [hd] at hb; omega

/-- What format `JCC_X` refuses (R86, R192). -/
theorem refuses_jccX {mk : Reg → Reg → Off → Instr} (hf : formOf op = some (.jccX mk)) :
    Refuses op (fun w => immField w ≠ 0 ∨ 10 < (dstField w).toNat ∨ 10 < (srcField w).toNat) := by
  rintro p w second rfl hbad
  refine exists_decode_error fun i h => ?_
  obtain ⟨d, r, hd, hs, hm, -⟩ := (decode_jccX_iff hf).1 h
  have hd10 := field_le_ten d
  have hr10 := field_le_ten r
  obtain hb | hb | hb := hbad
  · exact hb hm
  · rw [hd] at hb; omega
  · rw [hs] at hb; omega

end Coding

/-! ### Conditional jumps: the two classes -/

section Classes

variable {s : State} {c : Cond} {dst : Reg} {b : Source} {off : Off}

theorem jump64_of_operands {x y : Word} (hx : s.regs.get dst = some x) (hy : source64 s b = .ok y) :
    jump64 c dst b off s = .ok (branch s (c.holds x y) off) :=
  jump64_eq_ok.2 ⟨x, y, readReg_of_some hx, hy, rfl⟩

/-- Class `BPF_JMP32` compares the low halves (R194). -/
theorem jump32_of_operands {x : Word} {y : BitVec 32} (hx : s.regs.get dst = some x) (hy : source32 s b = .ok y) :
    jump32 c dst b off s = .ok (branch s (c.holds (x.extractLsb' 0 32) y) off) :=
  jump32_eq_ok.2 ⟨_, y, by rw [first32_of_some hx, low32_eq_extractLsb'], hy, rfl⟩

theorem readsBoth_jump64 (c : Cond) (off : Off) : ReadsBoth fun dst b => jump64 c dst b off where
  dst s d b h := by unfold jump64 first64; rw [readReg_of_none h]; rfl
  src s d r a hd h := by unfold jump64 first64; rw [readReg_of_some hd, source64_of_none h]; rfl

theorem readsBoth_jump32 (c : Cond) (off : Off) : ReadsBoth fun dst b => jump32 c dst b off where
  dst s d b h := by unfold jump32; rw [first32_of_none h]; rfl
  src s d r a hd h := by unfold jump32; rw [first32_of_some hd, source32_of_none h]; rfl

/-- An instruction that ends in a branch goes to the target or on, as the condition says (R191). -/
theorem goTo_or_goOn_of_branch {i : Instr} {w : Nat} {x y : BitVec w}
    (h : exec i s = .next (branch s (c.holds x y) off)) :
    (c.Holds x y → exec i s = .next (goTo s off)) ∧ (¬ c.Holds x y → exec i s = .next (goOn s)) := by
  rw [← Cond.holds_iff, h]
  cases c.holds x y with
  | true => exact ⟨fun _ => rfl, fun hn => absurd rfl hn⟩
  | false => exact ⟨nofun, fun _ => rfl⟩

end Classes

/-! ### Conditional jumps: an instruction and its body -/

/-- The jumps `mk dst imm off` have the opcode `op` and the meaning `body` with an immediate source. -/
structure JccK (op : BitVec 8) (mk : Reg → Imm → Off → Instr)
    (body : Reg → Source → Off → State → Except Fault State) : Prop where
  format : formOf op = some (.jccK mk)
  means : ∀ dst imm off, MeansPlain (mk dst imm off) (body dst (.k imm) off)

/-- The jumps `mk dst src off` have the opcode `op` and the meaning `body` with a register source. -/
structure JccX (op : BitVec 8) (mk : Reg → Reg → Off → Instr)
    (body : Reg → Source → Off → State → Except Fault State) : Prop where
  format : formOf op = some (.jccX mk)
  means : ∀ dst src off, MeansPlain (mk dst src off) (body dst (.x src) off)

section Jumps

variable {op : BitVec 8} {mkK : Reg → Imm → Off → Instr} {mkX : Reg → Reg → Off → Instr} {c : Cond}
  {body : Reg → Source → Off → State → Except Fault State}

theorem JccK.coded (h : JccK op mkK body) : CodedJccK op mkK :=
  ⟨fun p _ _ _ _ => decode_packSlot h.format (.jccK ..) ((h.means _ _ _).wellFormed p), refuses_jccK h.format⟩

theorem JccX.coded (h : JccX op mkX body) : CodedJccX op mkX :=
  ⟨fun p _ _ _ _ => decode_packSlot h.format (.jccX ..) ((h.means _ _ _).wellFormed p), refuses_jccX h.format⟩

theorem JccX.unread (h : JccX op mkX body) (hb : ∀ off, ReadsBoth fun dst b => body dst b off) : UnreadJump mkX :=
  ⟨fun s dst src off hn => (h.means dst src off).exec_error ((hb off).dst s dst _ hn),
    fun s dst src off a ha hn => (h.means dst src off).exec_error ((hb off).src s dst src a ha hn)⟩

theorem JccK.jumpK64 (h : JccK op mkK (jump64 c)) : JumpK64 op mkK c.Holds :=
  ⟨h.coded, fun _ dst imm off _ ha =>
      goTo_or_goOn_of_branch ((h.means dst imm off).exec_ok (jump64_of_operands ha rfl)),
    fun s dst imm off hn => (h.means dst imm off).exec_error ((readsBoth_jump64 c off).dst s dst _ hn)⟩

theorem JccK.jumpK32 (h : JccK op mkK (jump32 c)) : JumpK32 op mkK c.Holds :=
  ⟨h.coded, fun _ dst imm off _ ha =>
      goTo_or_goOn_of_branch ((h.means dst imm off).exec_ok (jump32_of_operands ha rfl)),
    fun s dst imm off hn => (h.means dst imm off).exec_error ((readsBoth_jump32 c off).dst s dst _ hn)⟩

theorem JccX.jumpX64 (h : JccX op mkX (jump64 c)) : JumpX64 op mkX c.Holds :=
  ⟨h.coded, fun _ dst src off _ _ ha hb =>
      goTo_or_goOn_of_branch ((h.means dst src off).exec_ok (jump64_of_operands ha (source64_x hb))),
    h.unread (readsBoth_jump64 c)⟩

theorem JccX.jumpX32 (h : JccX op mkX (jump32 c)) : JumpX32 op mkX c.Holds :=
  ⟨h.coded, fun _ dst src off _ _ ha hb => goTo_or_goOn_of_branch
      ((h.means dst src off).exec_ok (jump32_of_operands ha ((source32_x hb).trans (by rw [low32_eq_extractLsb'])))),
    h.unread (readsBoth_jump32 c)⟩

end Jumps

/-- The four forms of a conditional jump: two sources at 64 bits and at 32 (R190, R192). -/
structure FourJumps (k64 x64 k32 x32 : BitVec 8) (mk64 : Reg → Imm → Off → Instr) (mx64 : Reg → Reg → Off → Instr)
    (mk32 : Reg → Imm → Off → Instr) (mx32 : Reg → Reg → Off → Instr) (c : Cond) : Prop where
  k64 : JccK k64 mk64 (jump64 c)
  x64 : JccX x64 mx64 (jump64 c)
  k32 : JccK k32 mk32 (jump32 c)
  x32 : JccX x32 mx32 (jump32 c)

/-! ### The opcodes of the conditional jumps

Each row is a computation: the format of the opcode, the tables of R25 and R91, and the arm of `exec`. -/

theorem jumps_eq : FourJumps 0x15 0x1d 0x16 0x1e .jeqK .jeqX .jeq32K .jeq32X .eq := by
  constructor <;> exact ⟨(formOf_eq_or _).trans rfl, fun _ _ _ => meansPlain_of_not_mem nofun rfl rfl fun _ => rfl⟩

theorem jumps_gt : FourJumps 0x25 0x2d 0x26 0x2e .jgtK .jgtX .jgt32K .jgt32X .gt := by
  constructor <;> exact ⟨(formOf_eq_or _).trans rfl, fun _ _ _ => meansPlain_of_not_mem nofun rfl rfl fun _ => rfl⟩

theorem jumps_ge : FourJumps 0x35 0x3d 0x36 0x3e .jgeK .jgeX .jge32K .jge32X .ge := by
  constructor <;> exact ⟨(formOf_eq_or _).trans rfl, fun _ _ _ => meansPlain_of_not_mem nofun rfl rfl fun _ => rfl⟩

theorem jumps_set : FourJumps 0x45 0x4d 0x46 0x4e .jsetK .jsetX .jset32K .jset32X .set := by
  constructor <;> exact ⟨(formOf_eq_or _).trans rfl, fun _ _ _ => meansPlain_of_not_mem nofun rfl rfl fun _ => rfl⟩

theorem jumps_ne : FourJumps 0x55 0x5d 0x56 0x5e .jneK .jneX .jne32K .jne32X .ne := by
  constructor <;> exact ⟨(formOf_eq_or _).trans rfl, fun _ _ _ => meansPlain_of_not_mem nofun rfl rfl fun _ => rfl⟩

theorem jumps_sgt : FourJumps 0x65 0x6d 0x66 0x6e .jsgtK .jsgtX .jsgt32K .jsgt32X .sgt := by
  constructor <;> exact ⟨(formOf_eq_or _).trans rfl, fun _ _ _ => meansPlain_of_not_mem nofun rfl rfl fun _ => rfl⟩

theorem jumps_sge : FourJumps 0x75 0x7d 0x76 0x7e .jsgeK .jsgeX .jsge32K .jsge32X .sge := by
  constructor <;> exact ⟨(formOf_eq_or _).trans rfl, fun _ _ _ => meansPlain_of_not_mem nofun rfl rfl fun _ => rfl⟩

theorem jumps_lt : FourJumps 0xa5 0xad 0xa6 0xae .jltK .jltX .jlt32K .jlt32X .lt := by
  constructor <;> exact ⟨(formOf_eq_or _).trans rfl, fun _ _ _ => meansPlain_of_not_mem nofun rfl rfl fun _ => rfl⟩

theorem jumps_le : FourJumps 0xb5 0xbd 0xb6 0xbe .jleK .jleX .jle32K .jle32X .le := by
  constructor <;> exact ⟨(formOf_eq_or _).trans rfl, fun _ _ _ => meansPlain_of_not_mem nofun rfl rfl fun _ => rfl⟩

theorem jumps_slt : FourJumps 0xc5 0xcd 0xc6 0xce .jsltK .jsltX .jslt32K .jslt32X .slt := by
  constructor <;> exact ⟨(formOf_eq_or _).trans rfl, fun _ _ _ => meansPlain_of_not_mem nofun rfl rfl fun _ => rfl⟩

theorem jumps_sle : FourJumps 0xd5 0xdd 0xd6 0xde .jsleK .jsleX .jsle32K .jsle32X .sle := by
  constructor <;> exact ⟨(formOf_eq_or _).trans rfl, fun _ _ _ => meansPlain_of_not_mem nofun rfl rfl fun _ => rfl⟩

/-! ### The eleven conditional jumps (R200 to R243)

`Cond.Holds` of each code is the condition that the statements write out for it. -/

/-- Settles O40: the form of each code with an immediate at 64 bits. -/
theorem condJumps64K : Obligations.CondJumps64K :=
  ⟨jumps_eq.k64.jumpK64, jumps_gt.k64.jumpK64, jumps_ge.k64.jumpK64, jumps_set.k64.jumpK64, jumps_ne.k64.jumpK64,
    jumps_sgt.k64.jumpK64, jumps_sge.k64.jumpK64, jumps_lt.k64.jumpK64, jumps_le.k64.jumpK64, jumps_slt.k64.jumpK64,
    jumps_sle.k64.jumpK64⟩

/-- Settles O41: the form of each code with a register at 64 bits. -/
theorem condJumps64X : Obligations.CondJumps64X :=
  ⟨jumps_eq.x64.jumpX64, jumps_gt.x64.jumpX64, jumps_ge.x64.jumpX64, jumps_set.x64.jumpX64, jumps_ne.x64.jumpX64,
    jumps_sgt.x64.jumpX64, jumps_sge.x64.jumpX64, jumps_lt.x64.jumpX64, jumps_le.x64.jumpX64, jumps_slt.x64.jumpX64,
    jumps_sle.x64.jumpX64⟩

/-- Settles O42: the form of each code with an immediate at 32 bits. -/
theorem condJumps32K : Obligations.CondJumps32K :=
  ⟨jumps_eq.k32.jumpK32, jumps_gt.k32.jumpK32, jumps_ge.k32.jumpK32, jumps_set.k32.jumpK32, jumps_ne.k32.jumpK32,
    jumps_sgt.k32.jumpK32, jumps_sge.k32.jumpK32, jumps_lt.k32.jumpK32, jumps_le.k32.jumpK32, jumps_slt.k32.jumpK32,
    jumps_sle.k32.jumpK32⟩

/-- Settles O43: the form of each code with a register at 32 bits. -/
theorem condJumps32X : Obligations.CondJumps32X :=
  ⟨jumps_eq.x32.jumpX32, jumps_gt.x32.jumpX32, jumps_ge.x32.jumpX32, jumps_set.x32.jumpX32, jumps_ne.x32.jumpX32,
    jumps_sgt.x32.jumpX32, jumps_sge.x32.jumpX32, jumps_lt.x32.jumpX32, jumps_le.x32.jumpX32, jumps_slt.x32.jumpX32,
    jumps_sle.x32.jumpX32⟩

/-! ### `call` (R244, R246) -/

theorem means_call (n : Imm) : MeansPlain (.call n) (callHelper n) :=
  meansPlain_of_not_mem (by simp [Instr.written]) rfl rfl fun _ => rfl

/-- What format `CALL` refuses (R86). -/
theorem refuses_call {op : BitVec 8} {mk : Imm → Instr} (hf : formOf op = some (.call mk)) :
    Refuses op (fun w => dstField w ≠ 0 ∨ srcField w ≠ 0 ∨ offField w ≠ 0) := by
  rintro p w second rfl hbad
  refine exists_decode_error fun i h => ?_
  obtain ⟨hd, hs, ho, -⟩ := (decode_call_iff hf).1 h
  simp [hd, hs, ho] at hbad

/-- The argument registers among a list of registers (R244). -/
theorem mem_argRegs {regs : List Reg} {r : Reg} :
    r ∈ argRegs regs ↔ r ∈ regs ∧ r ∈ [Reg.r1, .r2, .r3, .r4, .r5] := by
  rw [argRegs, List.mem_filter, decide_eq_true_iff, and_comm]

section Call

variable {s t : State} {n : Imm} {h : Helper} {v : Word} {f : Fault} {args : List Word}

/-- A number that the environment gives no function (R244). -/
theorem exec_call_of_none (hf : findHelper s.helpers n = none) :
    exec (.call n) s = .next (raise s (.unknownFunction n)) :=
  (means_call n).exec_error (by rw [callHelper, hf])

/-- What the function answers goes to R0, and its effects stay (R24, R244). -/
theorem exec_call_of_ok (hf : findHelper s.helpers n = some h) (ha : applyHelper h s = .ok (v, t)) :
    exec (.call n) s = .next (putClobber t v) :=
  (means_call n).exec_ok (callHelper_eq_ok.2 ⟨h, v, t, hf, ha, rfl⟩)

/-- What the function raises is raised (R246). -/
theorem exec_call_of_error (hf : findHelper s.helpers n = some h) (ha : applyHelper h s = .error f) :
    exec (.call n) s = .next (raise s f) :=
  (means_call n).exec_error (by simp only [callHelper, hf, ha]; rfl)

/-- A function whose arguments can be read runs its body over them. -/
theorem applyHelper_of_args (ha : (argRegs h.reads).map s.regs.get = args.map some) :
    applyHelper h s = runHelper h.number (helperBody h args s.mem) args s := by
  rw [applyHelper, readRegs_of_get ha]
  rfl

/-- The lowest argument register that holds `novalue` is reported before the body runs (R323 step 3). -/
theorem applyHelper_of_none {pre post : List Reg} {r : Reg} (ha : argRegs h.reads = pre ++ r :: post)
    (hpre : ∀ q ∈ pre, (s.regs.get q).isSome = true) (hr : s.regs.get r = none) :
    applyHelper h s = .error (.uninitRegister r) := by
  rw [applyHelper, ha, readRegs_of_none hpre hr]
  rfl

theorem helperBody_of_script {body : HelperBody} (hk : h.kind = .script body) (m : Memory) :
    helperBody h args m = body := by
  rw [helperBody, hk]

theorem helperBody_of_external (hk : h.kind = .external) (m : Memory) :
    helperBody h args m = Config.externalHelper h.number args m := by
  rw [helperBody, hk]

end Call

/-- What each action of a called function does (R59, R244). -/
theorem helperActions : HelperActions := by
  intro n vals s
  refine ⟨fun e => rfl, fun e => rfl, fun regs k more hm => ?args, fun regs k pre r post hargs hpre hr => ?argsNone,
    fun a z k v t hv => ?load, fun a z k f hf => ?loadFault, fun a z w k t ht => ?store,
    fun a z w k f hf => ?storeFault, fun c yes no => ?branch⟩
  case args => rw [runHelper, readRegs_of_get hm]; rfl
  case argsNone => rw [runHelper, hargs, readRegs_of_none hpre hr]; rfl
  case load => rw [runHelper, hv]; rfl
  case loadFault => rw [runHelper, hf]; rfl
  case store => rw [runHelper, ht]; rfl
  case storeFault => rw [runHelper, hf]; rfl
  case branch => rw [runHelper]; split <;> rfl

/-- Settles O44: what the called function answers decides the end of the call. -/
theorem callRunsHelper : Obligations.CallRunsHelper := by
  refine ⟨fun p second imm => ?coded, refuses_call (mk := .call) rfl, fun s n => exec_call_of_none,
    fun s n h v t hf ha => ?answers, fun s n h f => exec_call_of_error, fun s n h e args hf hk ha => ?returns,
    fun s n h pre r post hf ha hpre hr => exec_call_of_error hf (applyHelper_of_none ha hpre hr),
    fun regs r => mem_argRegs, fun s h args ha => ⟨fun body hk => ?script, fun hk => ?external⟩, helperActions⟩
  case coded => exact decode_packSlot (f := .call .call) rfl (.call ..) ((means_call imm).wellFormed p)
  case answers =>
    have ht := onlyMemory_applyHelper ha
    exact ⟨exec_call_of_ok hf ha, ht.pc, ht.outcome, ht.regs⟩
  case returns =>
    exact exec_call_of_ok hf (by rw [applyHelper_of_args ha, helperBody_of_script hk]; rfl)
  case script => rw [applyHelper_of_args ha, helperBody_of_script hk]
  case external => rw [applyHelper_of_args ha, helperBody_of_external hk]

/-! ### `exit` (R245) -/

theorem means_exit : MeansPlain .exit exitProgram :=
  meansPlain_of_not_mem nofun rfl rfl fun _ => rfl

/-- What format `EXIT` refuses (R86). -/
theorem refuses_exit {op : BitVec 8} {i₀ : Instr} (hf : formOf op = some (.exit i₀)) :
    Refuses op (fun w => dstField w ≠ 0 ∨ srcField w ≠ 0 ∨ offField w ≠ 0 ∨ immField w ≠ 0) := by
  rintro p w second rfl hbad
  refine exists_decode_error fun i h => ?_
  obtain ⟨hd, hs, ho, hm, -⟩ := (decode_exit_iff hf).1 h
  simp [hd, hs, ho, hm] at hbad

/-- Settles O45: the one register it reads decides. -/
theorem exitReturnsR0 : Obligations.ExitReturnsR0 := by
  refine ⟨fun p second => ?coded, refuses_exit (i₀ := .exit) rfl, fun s v hv => ⟨?value, rfl⟩, fun s hn => ?novalue⟩
  case coded => exact decode_packSlot (f := .exit .exit) rfl (.exit ..) (means_exit.wellFormed p)
  case value => exact means_exit.exec_ok (exitProgram_eq_ok.2 ⟨v, hv, rfl⟩)
  case novalue => exact means_exit.exec_error (by rw [exitProgram, readReg_of_none hn]; rfl)

end Sys2Proof.Machine

/-! The regular loads and stores (`43_load_store.md`), and where these and the atomic operations complete.

Each body, its base read, is one access and a last step that depends on no check; the rules follow from that equation.
An access completes by what `MemRead`, `MemWrite` and the atomic update answer in their region (`20_memory.md`). -/

namespace Sys2Proof.Machine

/-! ### Loads and stores: what decodes and what is refused -/

section Coding

variable {op : BitVec 8}

/-- What format `LDX` refuses; its destination is written, its source is not (R86, R91). -/
theorem refuses_ldx {mk : Reg → Reg → Off → Instr} (hf : formOf op = some (.ldx mk))
    (hi : ∀ dst src off, (mk dst src off).written = [dst]) :
    Refuses op (fun w => immField w ≠ 0 ∨ 10 ≤ (dstField w).toNat ∨ 10 < (srcField w).toNat) := by
  rintro p w second rfl hbad
  refine exists_decode_error fun i h => ?_
  obtain ⟨d, r, hd, hs, hm, hw, -⟩ := (decode_ldx_iff hf).1 h
  have hlt := field_lt_ten (ne_r10_of_wellFormed (hi d r _) hw)
  simp [hd, hs, hm, hlt.not_ge, (field_le_ten r).not_gt] at hbad

/-- What format `ST` refuses; its base is read alone and may be R10 (R86). -/
theorem refuses_st {mk : Reg → Off → Imm → Instr} (hf : formOf op = some (.st mk)) :
    Refuses op (fun w => srcField w ≠ 0 ∨ 10 < (dstField w).toNat) := by
  rintro p w second rfl hbad
  refine exists_decode_error fun i h => ?_
  obtain ⟨d, hd, hs, -⟩ := (decode_st_iff hf).1 h
  simp [hd, hs, (field_le_ten d).not_gt] at hbad

/-- What format `STX` refuses; either register may be R10 (R86). -/
theorem refuses_stx {mk : Reg → Reg → Off → Instr} (hf : formOf op = some (.stx mk)) :
    Refuses op (fun w => immField w ≠ 0 ∨ 10 < (dstField w).toNat ∨ 10 < (srcField w).toNat) := by
  rintro p w second rfl hbad
  refine exists_decode_error fun i h => ?_
  obtain ⟨d, r, hd, hs, hm, -⟩ := (decode_stx_iff hf).1 h
  simp [hd, hs, hm, (field_le_ten d).not_gt, (field_le_ten r).not_gt] at hbad

end Coding

/-! ### Loads and stores: the bodies by their access -/

section Bodies

variable {s t : State} {dst src : Reg} {off : Off} {imm : Imm} {z : Size} {base v : Word}

/-- Joined bytes are a number of as many bytes. -/
theorem toNat_joinLE_lt {bs : List Byte} {n : Nat} (hl : bs.length = n) (hn : n ≤ 8) :
    (joinLE bs).toNat < 2 ^ (8 * n) := by
  subst hl
  rw [joinLE_toNat bs hn, pow_mul]
  exact numLE_lt bs

/-- The value that `MemRead` answers is zero-extended (R41 step 5). -/
theorem toNat_lt_of_memRead {addr : Word} (h : memRead s addr z = .ok (v, t)) : v.toNat < 2 ^ (8 * z.bytes) := by
  obtain ⟨r, -, -, hload⟩ := memRead_eq_ok.1 h
  obtain ⟨-, -, rfl⟩ | ⟨-, -, bs, hread, rfl⟩ := loadBytes_eq_ok.1 hload
  · exact toNat_joinLE_lt (by simp) (size_le_eight z)
  · exact toNat_joinLE_lt (by rw [hostOrder_length, (readByte_of_readBytes hread).1]) (size_le_eight z)

/-- A load with a readable base is `MemRead`, then the write of the destination (R251). -/
theorem loadReg_of_some (hb : s.regs.get src = some base) :
    loadReg z dst src off s = (memRead s (base + off.signExtend 64) z).map fun x => put x.2 dst x.1 := by
  rw [loadReg, readReg_of_some hb]
  change (memRead s (base + off.signExtend 64) z >>= _) = _
  cases memRead s (base + off.signExtend 64) z <;> rfl

theorem loadReg_of_none (hn : s.regs.get src = none) : loadReg z dst src off s = .error (.uninitRegister src) := by
  rw [loadReg, readReg_of_none hn]; rfl

/-- A store of an immediate with a readable base is `MemWrite`, and the next slot (R252). -/
theorem storeImm_of_some (hb : s.regs.get dst = some base) :
    storeImm z dst off imm s = (memWrite s (base + off.signExtend 64) z (imm.signExtend 64)).map goOn := by
  rw [storeImm, readReg_of_some hb]
  change (memWrite s (base + off.signExtend 64) z (imm.signExtend 64) >>= _) = _
  cases memWrite s (base + off.signExtend 64) z (imm.signExtend 64) <;> rfl

theorem storeImm_of_none (hn : s.regs.get dst = none) :
    storeImm z dst off imm s = .error (.uninitRegister dst) := by
  rw [storeImm, readReg_of_none hn]; rfl

/-- A store of a register with readable registers is `MemWrite`, and the next slot (R252). -/
theorem storeReg_of_some (hb : s.regs.get dst = some base) (hv : s.regs.get src = some v) :
    storeReg z dst src off s = (memWrite s (base + off.signExtend 64) z v).map goOn := by
  rw [storeReg, readReg_of_some hb, readReg_of_some hv]
  change (memWrite s (base + off.signExtend 64) z v >>= _) = _
  cases memWrite s (base + off.signExtend 64) z v <;> rfl

/-- The base is examined before the value (R253). -/
theorem storeReg_of_base_none (hn : s.regs.get dst = none) :
    storeReg z dst src off s = .error (.uninitRegister dst) := by
  rw [storeReg, readReg_of_none hn]; rfl

theorem storeReg_of_value_none (hb : s.regs.get dst = some base) (hn : s.regs.get src = none) :
    storeReg z dst src off s = .error (.uninitRegister src) := by
  rw [storeReg, readReg_of_some hb, readReg_of_none hn]; rfl

end Bodies

/-! ### Loads and stores: an instruction and its body -/

/-- The instructions `mk dst src off` have the opcode `op` and load `z` bytes. -/
structure FormLdx (op : BitVec 8) (mk : Reg → Reg → Off → Instr) (z : Size) : Prop where
  format : formOf op = some (.ldx mk)
  means : ∀ dst src off, MeansAlways (mk dst src off) dst (loadReg z dst src off)

/-- The instructions `mk dst off imm` have the opcode `op` and store `z` bytes of the immediate. -/
structure FormSt (op : BitVec 8) (mk : Reg → Off → Imm → Instr) (z : Size) : Prop where
  format : formOf op = some (.st mk)
  means : ∀ dst off imm, MeansPlain (mk dst off imm) (storeImm z dst off imm)

/-- The instructions `mk dst src off` have the opcode `op` and store `z` bytes of the source register. -/
structure FormStx (op : BitVec 8) (mk : Reg → Reg → Off → Instr) (z : Size) : Prop where
  format : formOf op = some (.stx mk)
  means : ∀ dst src off, MeansPlain (mk dst src off) (storeReg z dst src off)

section Rules

variable {op : BitVec 8} {mkX : Reg → Reg → Off → Instr} {mkK : Reg → Off → Imm → Instr} {z : Size}

theorem FormLdx.coded (h : FormLdx op mkX z) : CodedLdx op mkX :=
  ⟨fun p _ _ _ _ hd => decode_packSlot h.format (.ldx ..) ((h.means _ _ _).wellFormed hd p),
    refuses_ldx h.format fun _ _ _ => (h.means _ _ _).written⟩

theorem FormSt.coded (h : FormSt op mkK z) : CodedSt op mkK :=
  ⟨fun p _ _ _ _ => decode_packSlot h.format (.st ..) ((h.means _ _ _).wellFormed p), refuses_st h.format⟩

theorem FormStx.coded (h : FormStx op mkX z) : CodedStx op mkX :=
  ⟨fun p _ _ _ _ => decode_packSlot h.format (.stx ..) ((h.means _ _ _).wellFormed p), refuses_stx h.format⟩

theorem FormLdx.loadRule (h : FormLdx op mkX z) : LoadRule op mkX z := by
  refine ⟨h.coded, fun s dst src off base v t hd hb hr => ⟨?loads, toNat_lt_of_memRead hr⟩,
    fun s dst src off base f hd hb hf => ?faults, fun s dst src off hd hn => ?unread⟩
  case loads => rw [(h.means dst src off).exec_eq hd, loadReg_of_some hb, hr]; rfl
  case faults => rw [(h.means dst src off).exec_eq hd, loadReg_of_some hb, hf]; rfl
  case unread => rw [(h.means dst src off).exec_eq hd, loadReg_of_none hn]; rfl

theorem FormSt.storeImmRule (h : FormSt op mkK z) : StoreImmRule op mkK z := by
  refine ⟨h.coded, fun s dst off imm base t hb hw => (h.means dst off imm).exec_ok ?stores,
    fun s dst off imm base f hb hf => (h.means dst off imm).exec_error ?faults,
    fun s dst off imm hn => (h.means dst off imm).exec_error (storeImm_of_none hn)⟩
  case stores => rw [storeImm_of_some hb, hw]; rfl
  case faults => rw [storeImm_of_some hb, hf]; rfl

theorem FormStx.unread (h : FormStx op mkX z) : UnreadJump mkX :=
  ⟨fun _ dst src off hn => (h.means dst src off).exec_error (storeReg_of_base_none hn),
    fun _ dst src off _ hb hn => (h.means dst src off).exec_error (storeReg_of_value_none hb hn)⟩

theorem FormStx.storeRegRule (h : FormStx op mkX z) : StoreRegRule op mkX z := by
  refine ⟨h.coded, fun s dst src off base v t hb hv hw => (h.means dst src off).exec_ok ?stores,
    fun s dst src off base v f hb hv hf => (h.means dst src off).exec_error ?faults, h.unread⟩
  case stores => rw [storeReg_of_some hb hv, hw]; rfl
  case faults => rw [storeReg_of_some hb hv, hf]; rfl

end Rules

/-! ### The opcodes of the loads and stores

Each row is a computation: the format of the opcode, the tables of R25 and R91, and the arm of `exec`. -/

theorem form_ldxw : FormLdx 0x61 .ldxw .w := ⟨rfl, fun _ _ _ => ⟨⟨rfl, rfl, fun _ => rfl⟩, rfl⟩⟩
theorem form_ldxh : FormLdx 0x69 .ldxh .h := ⟨rfl, fun _ _ _ => ⟨⟨rfl, rfl, fun _ => rfl⟩, rfl⟩⟩
theorem form_ldxb : FormLdx 0x71 .ldxb .b := ⟨rfl, fun _ _ _ => ⟨⟨rfl, rfl, fun _ => rfl⟩, rfl⟩⟩
theorem form_ldxdw : FormLdx 0x79 .ldxdw .dw := ⟨rfl, fun _ _ _ => ⟨⟨rfl, rfl, fun _ => rfl⟩, rfl⟩⟩

theorem form_stw : FormSt 0x62 .stw .w := ⟨rfl, fun _ _ _ => meansPlain_of_not_mem nofun rfl rfl fun _ => rfl⟩
theorem form_sth : FormSt 0x6a .sth .h := ⟨rfl, fun _ _ _ => meansPlain_of_not_mem nofun rfl rfl fun _ => rfl⟩
theorem form_stb : FormSt 0x72 .stb .b := ⟨rfl, fun _ _ _ => meansPlain_of_not_mem nofun rfl rfl fun _ => rfl⟩
theorem form_stdw : FormSt 0x7a .stdw .dw := ⟨rfl, fun _ _ _ => meansPlain_of_not_mem nofun rfl rfl fun _ => rfl⟩

theorem form_stxw : FormStx 0x63 .stxw .w := ⟨rfl, fun _ _ _ => meansPlain_of_not_mem nofun rfl rfl fun _ => rfl⟩
theorem form_stxh : FormStx 0x6b .stxh .h := ⟨rfl, fun _ _ _ => meansPlain_of_not_mem nofun rfl rfl fun _ => rfl⟩
theorem form_stxb : FormStx 0x73 .stxb .b := ⟨rfl, fun _ _ _ => meansPlain_of_not_mem nofun rfl rfl fun _ => rfl⟩
theorem form_stxdw : FormStx 0x7b .stxdw .dw := ⟨rfl, fun _ _ _ => meansPlain_of_not_mem nofun rfl rfl fun _ => rfl⟩

/-- Settles O46: a load is `MemRead` and the write of its destination (`loadReg_of_some`). -/
theorem loadsReadMemory : Obligations.LoadsReadMemory :=
  ⟨form_ldxw.loadRule, form_ldxh.loadRule, form_ldxb.loadRule, form_ldxdw.loadRule⟩

/-- Settles O47: a store of an immediate is `MemWrite` (`storeImm_of_some`). -/
theorem storesImmWriteMemory : Obligations.StoresImmWriteMemory :=
  ⟨form_stw.storeImmRule, form_sth.storeImmRule, form_stb.storeImmRule, form_stdw.storeImmRule⟩

/-- Settles O48: a store of a register is `MemWrite`, its base examined first (`storeReg_of_some`). -/
theorem storesRegWriteMemory : Obligations.StoresRegWriteMemory :=
  ⟨form_stxw.storeRegRule, form_stxh.storeRegRule, form_stxb.storeRegRule, form_stxdw.storeRegRule⟩

/-! ### Where loads and stores complete -/

section Completes

variable {op : BitVec 8} {mkX : Reg → Reg → Off → Instr} {mkK : Reg → Off → Imm → Instr} {z : Size}

/-- Past the checks, `MemRead` answers the value that the bytes show (R41, R52). -/
theorem LoadRule.completes (h : LoadRule op mkX z) : LoadCompletes mkX z := by
  intro s dst src off base r v hd hb hin hr hp hv
  obtain ⟨-, hloads, -⟩ := h
  exact (hloads s dst src off base v _ hd hb ((memRead_of_placed hin hr hp).trans (loadBytes_of_shows hv))).1

/-- Past the checks, `MemWrite` stores (R42). -/
theorem StoreImmRule.completes (h : StoreImmRule op mkK z) : StoreImmCompletes mkK z := by
  intro s dst off imm base r hb hin hw hp
  obtain ⟨-, hstores, -⟩ := h
  exact ⟨_, hstores s dst off imm base _ hb (memWrite_of_placed hin hw hp), stored_storeBytes s _ z _⟩

theorem StoreRegRule.completes (h : StoreRegRule op mkX z) : StoreRegCompletes mkX z := by
  intro s dst src off base v r hb hv hin hw hp
  obtain ⟨-, hstores, -⟩ := h
  exact ⟨_, hstores s dst src off base v _ hb hv (memWrite_of_placed hin hw hp), stored_storeBytes s _ z v⟩

end Completes

/-! ### Atomic operations: an instruction and its body -/

/-- `i` is an atomic operation with the version tag `tag` that writes the registers `target` and means `body`
(R271, R273). -/
structure MeansTagged (i : Instr) (tag : IsaVersion) (target : List Reg) (body : State → Except Fault State) :
    Prop where
  written : i.written = target
  version : i.version = some tag
  negForm : i.isExtraNegForm = false
  exec : ∀ s, exec i s = attempt i s body

/-- The body of a simple operation, with `BPF_FETCH` or without (R272, R273). -/
def atomicSimple (fetch : Bool) (z : Size) (f : Word → Word → Word) (dst src : Reg) (off : Off) (s : State) :
    Except Fault State :=
  if fetch then atomicFetch z f dst src off s else atomicPlain z f dst src off s

/-- What the machine computes by `f` of the part of the operand that it uses is stored as `upd` of the operand would be
(R274). -/
def StoresAs (z : Size) (f upd : Word → Word → Word) : Prop :=
  ∀ old v, lowBytes z.bytes (f old (atomicOperand z v)) = lowBytes z.bytes (upd old v)

section Atomic

variable {i : Instr} {tag : IsaVersion} {target : List Reg} {body : State → Except Fault State} {s t : State}
  {p : Params} {z : Size} {dst src : Reg} {off : Off} {addr base v k old : Word} {r : Region}

/-- A tagged operation is well-formed where it does not write R10 and the version admits it (R91, R271). -/
theorem MeansTagged.wellFormed (h : MeansTagged i tag target body) (h10 : .r10 ∉ target)
    (ht : tag = .v1 ∨ p.isaVersion = .v3) : i.WellFormed p := by
  refine wellFormed_iff.2 ⟨by rwa [h.written], ?_, by simp [h.negForm]⟩
  rw [h.version]
  rintro ⟨⟨⟩, hp⟩
  obtain ht | ht := ht
  · cases ht
  · rw [hp] at ht; cases ht

theorem MeansTagged.exec_ok (h : MeansTagged i tag target body) (h10 : .r10 ∉ target)
    (ht : tag = .v1 ∨ s.params.isaVersion = .v3) (hb : body s = .ok t) : Machine.exec i s = .next t := by
  rw [h.exec, attempt_ok (h.wellFormed h10 ht) hb]

/-- A simple operation with readable registers is the update of memory, then the write of the source register for one
that fetches (R272, R273, R275). -/
theorem atomicSimple_of_some {fetch : Bool} {f : Word → Word → Word} (hb : s.regs.get dst = some base)
    (hv : s.regs.get src = some v) :
    atomicSimple fetch z f dst src off s =
      (atomicUpdate s (base + off.signExtend 64) z fun o => f o (atomicOperand z v)).map fun x =>
        if fetch then put x.2 src x.1 else goOn x.2 := by
  have haccess : atomicAccess z dst src off f s =
      atomicUpdate s (base + off.signExtend 64) z fun o => f o (atomicOperand z v) := by
    rw [atomicAccess, readReg_of_some hb, readReg_of_some hv]; rfl
  rw [atomicSimple, atomicFetch, atomicPlain, haccess]
  cases atomicUpdate s (base + off.signExtend 64) z fun o => f o (atomicOperand z v) <;> cases fetch <;> rfl

/-- Compare and exchange with readable registers is the update of memory, then the write of R0 (R273, R275). -/
theorem atomicCompare_of_some (hb : s.regs.get dst = some base) (hv : s.regs.get src = some v)
    (hk : s.regs.get .r0 = some k) :
    atomicCompare z dst src off s =
      (atomicUpdate s (base + off.signExtend 64) z fun o =>
        if o = atomicOperand z k then atomicOperand z v else o).map fun x => put x.2 .r0 x.1 := by
  rw [atomicCompare, readReg_of_some hb, readReg_of_some hv, readReg_of_some hk]
  change (atomicUpdate s (base + off.signExtend 64) z _ >>= _) = _
  cases atomicUpdate s (base + off.signExtend 64) z fun o =>
    if o = atomicOperand z k then atomicOperand z v else o <;> rfl

/-! ### Where atomic operations complete -/

/-- In a readable and writable region, at an aligned address, the update answers the value that the bytes show and
stores the new one (R270, R275). -/
theorem atomicUpdate_of_shows {f : Word → Word} (hin : InPlace s r addr z) (hr : r.readable = true)
    (hw : r.writable = true) (ha : addr.toNat % z.bytes = 0) (hold : Shows s r addr z old) :
    atomicUpdate s addr z f = .ok (old, storeBytes { s with oracleTick := tickAfter s r } addr z (f old)) :=
  atomicUpdate_eq_ok.2 ⟨r, r, _, (checkRegion_of_inPlace hin).trans (if_pos hr),
    (checkRegion_of_inPlace hin).trans (if_pos hw), checkAligned_eq_ok.2 (.inl (isAligned_iff.2 ha)),
    loadBytes_of_shows hold, rfl⟩

/-- The bytes stored depend on the low part of the value alone (R42). -/
theorem Stored.congr {m : Memory} {v w : Word} (h : Stored s m addr z v)
    (hvw : lowBytes z.bytes v = lowBytes z.bytes w) : Stored s m addr z w := by
  obtain ⟨hin, hout⟩ := h
  refine ⟨fun i hi => ?_, hout⟩
  rw [hin i hi, ← byteAt_lowBytes v (size_le_eight z) hi, hvw, byteAt_lowBytes w (size_le_eight z) hi]

end Atomic

section AtomicCompletes

variable {mk : Reg → Reg → Off → Instr} {z : Size} {tag : IsaVersion} {fetch : Bool}

/-- A simple operation completes: the source register, where it is fetched into, is the one register it writes. -/
theorem atomicCompletes_of_means {f upd : Word → Word → Word}
    (h : ∀ dst src off,
      MeansTagged (mk dst src off) tag (if fetch then [src] else []) (atomicSimple fetch z f dst src off))
    (hval : StoresAs z f upd) : AtomicCompletes mk z tag upd fetch := by
  intro s dst src off base v r old h10 ht hb hv hin hr hw ha hold
  have htarget : .r10 ∉ if fetch then [src] else [] := by
    cases fetch with
    | true => simpa [eq_comm] using h10 rfl
    | false => exact List.not_mem_nil
  refine ⟨_, (h dst src off).exec_ok htarget ht ?_, (stored_storeBytes s _ z _).congr (hval old v)⟩
  rw [atomicSimple_of_some hb hv, atomicUpdate_of_shows hin hr hw ha hold]
  cases fetch <;> rfl

/-- Compare and exchange completes; `hval` is asked of the values that an access of this size can answer. -/
theorem compareCompletes_of_means {upd : Word → Word → Word → Word}
    (h : ∀ dst src off, MeansTagged (mk dst src off) .v3 [.r0] (atomicCompare z dst src off))
    (hval : ∀ old k v : Word, old.toNat < 2 ^ (8 * z.bytes) →
      lowBytes z.bytes (if old = atomicOperand z k then atomicOperand z v else old) =
        lowBytes z.bytes (upd old k v)) :
    CompareCompletes mk z upd := by
  intro s dst src off base v k r old ht hb hv hk hin hr hw ha hold
  have ⟨hlt, _⟩ := hold
  refine ⟨_, (h dst src off).exec_ok (by simp) (.inr ht) ?_, (stored_storeBytes s _ z _).congr (hval old k v hlt)⟩
  rw [atomicCompare_of_some hb hv hk, atomicUpdate_of_shows hin hr hw ha hold]
  rfl

end AtomicCompletes

/-! ### Atomic operations: the values stored -/

/-- Eight bytes of a register are all of it (R274). -/
theorem atomicOperand_dw (v : Word) : atomicOperand .dw v = v := lowBytes_eight v

theorem storesAs_dw (f : Word → Word → Word) : StoresAs .dw f f := fun _ _ => by rw [atomicOperand_dw]

/-- Zero extension keeps the low half (R274). -/
theorem low32_zext32 (x : BitVec 32) : low32 (zext32 x) = x :=
  (BitVec.setWidth_setWidth_of_le x (by decide)).trans (BitVec.setWidth_eq x)

/-- Four bytes of a value are its low half, zero-extended (R274). -/
theorem lowBytes_four (v : Word) : lowBytes 4 v = zext32 (low32 v) := by
  rw [lowBytes_eq_ofNat v (by decide), zext32_eq_ofNat, toNat_low32]

theorem low32_onLow (g : BitVec 32 → BitVec 32 → BitVec 32) (old v : Word) :
    low32 (onLow g old v) = g (low32 old) (low32 v) := by
  rw [onLow, ← zext32_eq_ofNat, low32_zext32, low32_eq_extractLsb', low32_eq_extractLsb']

/-- An operation whose low half is `g` of the low halves stores what `onLow g` says (R274). -/
theorem storesAs_onLow {f : Word → Word → Word} {g : BitVec 32 → BitVec 32 → BitVec 32}
    (h : ∀ a b, low32 (f a b) = g (low32 a) (low32 b)) : StoresAs .w f (onLow g) := by
  intro old v
  change lowBytes 4 (f old (lowBytes 4 v)) = lowBytes 4 (onLow g old v)
  simp only [lowBytes_four, h, low32_zext32, low32_onLow]

theorem low32_add (a b : Word) : low32 (a + b) = low32 a + low32 b := BitVec.setWidth_add a b (by decide)
theorem low32_or (a b : Word) : low32 (a ||| b) = low32 a ||| low32 b := BitVec.setWidth_or
theorem low32_and (a b : Word) : low32 (a &&& b) = low32 a &&& low32 b := BitVec.setWidth_and
theorem low32_xor (a b : Word) : low32 (a ^^^ b) = low32 a ^^^ low32 b := BitVec.setWidth_xor

/-- A value of 32 bits equals the low half of R0 where the numbers agree modulo `2^32` (R286). -/
theorem eq_atomicOperand_w_iff {old k : Word} (ho : old.toNat < 2 ^ 32) :
    old = atomicOperand .w k ↔ old.toNat % 2 ^ 32 = k.toNat % 2 ^ 32 := by
  rw [Nat.mod_eq_of_lt ho, ← BitVec.toNat_inj]
  change old.toNat = (lowBytes 4 k).toNat ↔ _
  rw [lowBytes_toNat 4 k (by decide), show 256 ^ 4 = 2 ^ 32 from rfl]

/-- Compare and exchange of 32 bits stores the low half of the operand or the old value again (R286). -/
theorem lowBytes_compare_w {old k v : Word} (ho : old.toNat < 2 ^ (8 * Size.w.bytes)) :
    lowBytes Size.w.bytes (if old = atomicOperand .w k then atomicOperand .w v else old) =
      lowBytes Size.w.bytes (if old.toNat % 2 ^ 32 = k.toNat % 2 ^ 32 then v else old) := by
  simp only [eq_atomicOperand_w_iff ho]
  split
  · exact lowBytes_lowBytes 4 v
  · rfl

/-! ### The atomic operations: each with its body

Each row is a computation: the tables of R25, R91 and R271, and the arm of `exec`. -/

/-- The four forms of an operation: without `BPF_FETCH` and with it, at 32 bits and at 64; `tag` is the version of the
forms without (R271, R272). -/
structure FourAtomics (plain32 fetch32 plain64 fetch64 : Reg → Reg → Off → Instr) (tag : IsaVersion)
    (f : Word → Word → Word) : Prop where
  plain32 : ∀ dst src off, MeansTagged (plain32 dst src off) tag [] (atomicSimple false .w f dst src off)
  fetch32 : ∀ dst src off, MeansTagged (fetch32 dst src off) .v3 [src] (atomicSimple true .w f dst src off)
  plain64 : ∀ dst src off, MeansTagged (plain64 dst src off) tag [] (atomicSimple false .dw f dst src off)
  fetch64 : ∀ dst src off, MeansTagged (fetch64 dst src off) .v3 [src] (atomicSimple true .dw f dst src off)

theorem atomics_add : FourAtomics .atomicAdd32 .atomicFetchAdd32 .atomicAdd64 .atomicFetchAdd64 .v1
    fun old v => old + v := by
  constructor <;> exact fun _ _ _ => ⟨rfl, rfl, rfl, fun _ => rfl⟩

theorem atomics_or : FourAtomics .atomicOr32 .atomicFetchOr32 .atomicOr64 .atomicFetchOr64 .v3
    fun old v => old ||| v := by
  constructor <;> exact fun _ _ _ => ⟨rfl, rfl, rfl, fun _ => rfl⟩

theorem atomics_and : FourAtomics .atomicAnd32 .atomicFetchAnd32 .atomicAnd64 .atomicFetchAnd64 .v3
    fun old v => old &&& v := by
  constructor <;> exact fun _ _ _ => ⟨rfl, rfl, rfl, fun _ => rfl⟩

theorem atomics_xor : FourAtomics .atomicXor32 .atomicFetchXor32 .atomicXor64 .atomicFetchXor64 .v3
    fun old v => old ^^^ v := by
  constructor <;> exact fun _ _ _ => ⟨rfl, rfl, rfl, fun _ => rfl⟩

section Exchange

variable (dst src : Reg) (off : Off)

theorem means_atomicXchg32 :
    MeansTagged (.atomicXchg32 dst src off) .v3 [src] (atomicSimple true .w (fun _ v => v) dst src off) :=
  ⟨rfl, rfl, rfl, fun _ => rfl⟩

theorem means_atomicCmpxchg32 :
    MeansTagged (.atomicCmpxchg32 dst src off) .v3 [.r0] (atomicCompare .w dst src off) :=
  ⟨rfl, rfl, rfl, fun _ => rfl⟩

theorem means_atomicXchg64 :
    MeansTagged (.atomicXchg64 dst src off) .v3 [src] (atomicSimple true .dw (fun _ v => v) dst src off) :=
  ⟨rfl, rfl, rfl, fun _ => rfl⟩

theorem means_atomicCmpxchg64 :
    MeansTagged (.atomicCmpxchg64 dst src off) .v3 [.r0] (atomicCompare .dw dst src off) :=
  ⟨rfl, rfl, rfl, fun _ => rfl⟩

end Exchange

/-- Settles O60: past its checks an access answers or stores the bytes in place, and each atomic operation computes the
stated value as far as it is stored. -/
theorem accessesComplete : Obligations.AccessesComplete :=
  ⟨form_ldxw.loadRule.completes, form_ldxh.loadRule.completes, form_ldxb.loadRule.completes,
    form_ldxdw.loadRule.completes,
    form_stw.storeImmRule.completes, form_sth.storeImmRule.completes, form_stb.storeImmRule.completes,
    form_stdw.storeImmRule.completes,
    form_stxw.storeRegRule.completes, form_stxh.storeRegRule.completes, form_stxb.storeRegRule.completes,
    form_stxdw.storeRegRule.completes,
    atomicCompletes_of_means atomics_add.plain32 (storesAs_onLow low32_add),
    atomicCompletes_of_means atomics_add.fetch32 (storesAs_onLow low32_add),
    atomicCompletes_of_means atomics_or.plain32 (storesAs_onLow low32_or),
    atomicCompletes_of_means atomics_or.fetch32 (storesAs_onLow low32_or),
    atomicCompletes_of_means atomics_and.plain32 (storesAs_onLow low32_and),
    atomicCompletes_of_means atomics_and.fetch32 (storesAs_onLow low32_and),
    atomicCompletes_of_means atomics_xor.plain32 (storesAs_onLow low32_xor),
    atomicCompletes_of_means atomics_xor.fetch32 (storesAs_onLow low32_xor),
    atomicCompletes_of_means means_atomicXchg32 (storesAs_onLow fun _ _ => rfl),
    compareCompletes_of_means means_atomicCmpxchg32 fun _ _ _ => lowBytes_compare_w,
    atomicCompletes_of_means atomics_add.plain64 (storesAs_dw _),
    atomicCompletes_of_means atomics_add.fetch64 (storesAs_dw _),
    atomicCompletes_of_means atomics_or.plain64 (storesAs_dw _),
    atomicCompletes_of_means atomics_or.fetch64 (storesAs_dw _),
    atomicCompletes_of_means atomics_and.plain64 (storesAs_dw _),
    atomicCompletes_of_means atomics_and.fetch64 (storesAs_dw _),
    atomicCompletes_of_means atomics_xor.plain64 (storesAs_dw _),
    atomicCompletes_of_means atomics_xor.fetch64 (storesAs_dw _),
    atomicCompletes_of_means means_atomicXchg64 (storesAs_dw _),
    compareCompletes_of_means means_atomicCmpxchg64 fun _ _ _ _ => by simp only [atomicOperand_dw]⟩

end Sys2Proof.Machine

/-! The atomic operations (`44_atomic.md`). The update of memory is settled check by check; the twenty operations are
settled by their row of the table and by the value they compute, as far as it is stored (`StoresAs`). -/

namespace Sys2Proof.Machine

/-! ### The update and its faults (R270, R275) -/

section Update

variable {s u : State} {r : Region} {addr old : Word} {z : Size} {f : Word → Word}

/-- An atomic access must be aligned under either value of `MISALIGNED` (R48, R275). -/
theorem checkAligned_atomic_of_misaligned (h : addr.toNat % z.bytes ≠ 0) :
    checkAligned s true addr z = .error (.misaligned addr z.bytes) := by
  cases hc : checkAligned s true addr z with
  | error f => rw [checkAligned_eq_error hc]
  | ok _ =>
    obtain hal | ⟨hfalse, -⟩ := checkAligned_eq_ok.1 hc
    · exact absurd (isAligned_iff.1 hal) h
    · cases hfalse

theorem atomicUpdate_of_uncovered (h : 2 ^ 64 < addr.toNat + z.bytes ∨ ∀ r ∈ s.regions, ¬ covers r addr z) :
    atomicUpdate s addr z f = .error (.memFault addr z.bytes .read) := by
  rw [atomicUpdate, checkRegion_of_uncovered h]; rfl

theorem atomicUpdate_of_not_readable (h : InPlace s r addr z) (hr : r.readable = false) :
    atomicUpdate s addr z f = .error (.memFault addr z.bytes .read) := by
  rw [atomicUpdate, checkRegion_of_inPlace h, permits, hr]; rfl

/-- Past the check of the region for reading, the one for writing. -/
theorem atomicUpdate_of_not_writable (h : InPlace s r addr z) (hr : r.readable = true) (hw : r.writable = false) :
    atomicUpdate s addr z f = .error (.memFault addr z.bytes .write) := by
  rw [atomicUpdate, checkRegion_of_inPlace h, checkRegion_of_inPlace h, permits, permits, hr, hw]; rfl

/-- Past both checks of the region, the check of the alignment and the load of the bytes are left. -/
theorem atomicUpdate_of_inPlace (h : InPlace s r addr z) (hr : r.readable = true) (hw : r.writable = true) :
    atomicUpdate s addr z f = do
      checkAligned s true addr z
      let x ← loadBytes s r addr z
      return (x.1, storeBytes x.2 addr z (f x.1)) := by
  rw [atomicUpdate, checkRegion_of_inPlace h, checkRegion_of_inPlace h, permits, permits, hr, hw]; rfl

theorem atomicUpdate_of_misaligned (h : InPlace s r addr z) (hr : r.readable = true) (hw : r.writable = true)
    (ha : addr.toNat % z.bytes ≠ 0) : atomicUpdate s addr z f = .error (.misaligned addr z.bytes) := by
  rw [atomicUpdate_of_inPlace h hr hw, checkAligned_atomic_of_misaligned ha]; rfl

/-- Past its checks, the update is `MemRead`, then the store of the new value (R270). -/
theorem atomicUpdate_of_aligned (h : InPlace s r addr z) (hr : r.readable = true) (hw : r.writable = true)
    (ha : addr.toNat % z.bytes = 0) :
    atomicUpdate s addr z f = (memRead s addr z).map fun x => (x.1, storeBytes x.2 addr z (f x.1)) := by
  rw [atomicUpdate_of_inPlace h hr hw, checkAligned_eq_ok.2 (.inl (isAligned_iff.2 ha)),
    memRead_of_placed h hr (.inl ha)]
  cases hl : loadBytes s r addr z <;> rfl

/-- A read moves no region. -/
theorem InPlace.of_memRead (h : InPlace s r addr z) (hu : memRead s addr z = .ok (old, u)) : InPlace u r addr z := by
  rw [memRead_frame hu]; exact h

end Update

end Sys2Proof.Machine

namespace Sys2Proof

open Machine

/-- Settles O57: the checks of the region come first, then the alignment, then the bytes. -/
theorem atomicUpdate : Obligations.AtomicUpdate := by
  intro s addr z f
  refine ⟨atomicUpdate_of_uncovered, fun r hok hmem hcov => ?_⟩
  have hin : InPlace s r addr z := ⟨hok, hmem, hcov⟩
  refine ⟨atomicUpdate_of_not_readable hin, atomicUpdate_of_not_writable hin, atomicUpdate_of_misaligned hin,
    fun hr hw ha hsh hnone => ?nobyte, fun old u hr hw ha hread => ?updates⟩
  case nobyte =>
    rw [atomicUpdate_of_aligned hin hr hw ha, memRead_of_placed hin hr (.inl ha), loadBytes_of_nobyte hsh hnone]; rfl
  case updates =>
    refine ⟨_, memWrite_of_placed (hin.of_memRead hread) hw (.inl ha), ?_⟩
    rw [atomicUpdate_of_aligned hin hr hw ha, hread]; rfl

end Sys2Proof

namespace Sys2Proof.Machine

/-! ### The new value, as far as it is stored (R274) -/

section Stores

variable {s t : State} {r : Region} {addr old v w : Word} {z : Size} {f g : Word → Word}

/-- A store takes the low part of the value alone (R42). -/
theorem storeBytes_congr (h : lowBytes z.bytes v = lowBytes z.bytes w) :
    storeBytes s addr z v = storeBytes s addr z w := by
  have hsplit : splitLE z.bytes v = splitLE z.bytes w := by
    rw [← splitLE_lowBytes _ v (size_le_eight z), h, splitLE_lowBytes _ w (size_le_eight z)]
  rw [storeBytes, storeBytes, storedBytes, storedBytes, hsplit]

/-- The value loaded is zero-extended (R41 step 5). -/
theorem toNat_lt_of_loadBytes (h : loadBytes s r addr z = .ok (old, t)) : old.toNat < 2 ^ (8 * z.bytes) := by
  obtain ⟨-, -, rfl⟩ | ⟨-, -, bs, hread, rfl⟩ := loadBytes_eq_ok.1 h
  · exact toNat_joinLE_lt (by simp) (size_le_eight z)
  · exact toNat_joinLE_lt (by rw [hostOrder_length, (readByte_of_readBytes hread).1]) (size_le_eight z)

/-- Functions that agree in the low part of the new value, on the old values that a load can answer, update memory
alike. -/
theorem atomicUpdate_congr
    (h : ∀ old : Word, old.toNat < 2 ^ (8 * z.bytes) → lowBytes z.bytes (f old) = lowBytes z.bytes (g old)) :
    atomicUpdate s addr z f = atomicUpdate s addr z g := by
  unfold atomicUpdate
  refine bind_congr fun r => bind_congr fun _ => bind_congr fun _ => ?_
  cases hl : loadBytes s r addr z with
  | error e => rfl
  | ok x => exact congrArg (fun t => Except.ok (x.1, t)) (storeBytes_congr (h x.1 (toNat_lt_of_loadBytes hl)))

end Stores

/-! ### Atomic operations: what decodes and what is refused -/

/-- The constant `imm` selects the operation `mk` under the opcode `op` (R88). -/
def Selects (op : BitVec 8) (imm : Imm) (mk : Reg → Reg → Off → Instr) : Prop :=
  ∃ pick, formOf op = some (.atomic pick) ∧ pick imm = some mk

section Coding

variable {op : BitVec 8} {imm : Imm} {mk : Reg → Reg → Off → Instr} {tag : IsaVersion} {writesSrc : Bool}
  {target : Reg → List Reg} {body : Reg → Reg → Off → State → Except Fault State}

/-- What decodes under the constant of an operation is that operation, well-formed. -/
theorem Selects.of_decode {p : Params} {w : Word} {second : Option Word} {i : Instr}
    (hsel : Selects (opcodeField w) (immField w) mk) (h : decode p w second = .ok i) :
    ∃ d r, dstField w = d.field ∧ srcField w = r.field ∧ (mk d r (offField w)).WellFormed p := by
  obtain ⟨pick, hf, hpick⟩ := hsel
  obtain ⟨d, r, mk', hd, hs, hk, hw, -⟩ := (decode_atomic_iff hf).1 h
  obtain rfl : mk' = mk := Option.some.inj (hk.symm.trans hpick)
  exact ⟨d, r, hd, hs, hw⟩

/-- An operation is coded by its constant; its version tag and the register it writes decide where it is refused
(R271, R275). -/
theorem Selects.coded (hsel : Selects op imm mk)
    (h : ∀ dst src off, MeansTagged (mk dst src off) tag (target src) (body dst src off))
    (h10 : ∀ src, .r10 ∈ target src ↔ writesSrc = true ∧ src = .r10) : CodedAtomic op imm mk tag writesSrc := by
  refine ⟨fun p second dst src off ht hsrc => ?decodes, fun p second dst src off ht hp => ?version,
    fun p w second hop ⟨him, hbad⟩ => ?refused⟩
  case decodes =>
    have hw : (mk dst src off).WellFormed p := (h dst src off).wellFormed (mt (h10 src).1 (not_and.2 hsrc)) ht
    obtain ⟨pick, hf, hpick⟩ := hsel
    exact decode_packSlot hf (.atomic _ _ _ _ _ _ _ hpick) hw
  case version =>
    refine exists_decode_error fun i hi => ?_
    obtain ⟨d, r, -, -, hw⟩ := Selects.of_decode (mk := mk) (by simpa using hsel) hi
    obtain ⟨-, hversion, -⟩ := wellFormed_iff.1 hw
    exact hversion ⟨(h _ _ _).version.trans (by rw [ht]), hp⟩
  case refused =>
    subst hop him
    refine exists_decode_error fun i hi => ?_
    obtain ⟨d, r, hd, hs, hw⟩ := hsel.of_decode hi
    obtain ⟨hr10, -⟩ := wellFormed_iff.1 hw
    rw [(h _ _ _).written, h10] at hr10
    rw [hd, hs] at hbad
    obtain hb | hb | ⟨hwrites, hb⟩ := hbad
    · exact (field_le_ten d).not_gt hb
    · exact (field_le_ten r).not_gt hb
    · exact hr10 ⟨hwrites, field_eq_ten hb⟩

end Coding

/-! ### Atomic operations: the order in which registers are read (R275) -/

section Bodies

variable {s : State} {dst src : Reg} {off : Off} {z : Size} {base v : Word} {fetch : Bool}
  {f : Word → Word → Word}

theorem atomicSimple_of_base_none (hn : s.regs.get dst = none) :
    atomicSimple fetch z f dst src off s = .error (.uninitRegister dst) := by
  rw [atomicSimple, atomicFetch, atomicPlain, atomicAccess, readReg_of_none hn]
  cases fetch <;> rfl

theorem atomicSimple_of_operand_none (hb : s.regs.get dst = some base) (hn : s.regs.get src = none) :
    atomicSimple fetch z f dst src off s = .error (.uninitRegister src) := by
  rw [atomicSimple, atomicFetch, atomicPlain, atomicAccess, readReg_of_some hb, readReg_of_none hn]
  cases fetch <;> rfl

theorem atomicCompare_of_base_none (hn : s.regs.get dst = none) :
    atomicCompare z dst src off s = .error (.uninitRegister dst) := by
  rw [atomicCompare, readReg_of_none hn]; rfl

theorem atomicCompare_of_operand_none (hb : s.regs.get dst = some base) (hn : s.regs.get src = none) :
    atomicCompare z dst src off s = .error (.uninitRegister src) := by
  rw [atomicCompare, readReg_of_some hb, readReg_of_none hn]; rfl

theorem atomicCompare_of_r0_none (hb : s.regs.get dst = some base) (hv : s.regs.get src = some v)
    (hn : s.regs.get .r0 = none) : atomicCompare z dst src off s = .error (.uninitRegister .r0) := by
  rw [atomicCompare, readReg_of_some hb, readReg_of_some hv, readReg_of_none hn]; rfl

end Bodies

/-! ### Atomic operations: the rules -/

section Rules

variable {op : BitVec 8} {imm : Imm} {mk : Reg → Reg → Off → Instr} {z : Size} {tag : IsaVersion} {fetch : Bool}

theorem MeansTagged.exec_error {i : Instr} {target : List Reg} {body : State → Except Fault State} {s : State}
    {e : Fault} (h : MeansTagged i tag target body) (h10 : .r10 ∉ target)
    (ht : tag = .v1 ∨ s.params.isaVersion = .v3) (hb : body s = .error e) : Machine.exec i s = .next (raise s e) := by
  rw [h.exec, attempt_error (h.wellFormed h10 ht) hb]

/-- A simple operation writes R10 where it fetches into R10. -/
theorem r10_mem_target_iff (src : Reg) : .r10 ∈ (if fetch then [src] else []) ↔ fetch = true ∧ src = .r10 := by
  cases fetch <;> simp [eq_comm]

/-- A simple operation follows its rule: the update stores what `upd` says. -/
theorem Selects.atomicRule {f upd : Word → Word → Word} (hsel : Selects op imm mk)
    (h : ∀ dst src off,
      MeansTagged (mk dst src off) tag (if fetch then [src] else []) (atomicSimple fetch z f dst src off))
    (hval : StoresAs z f upd) : AtomicRule op imm mk tag z upd fetch := by
  have hupd (s : State) (addr v : Word) :
      atomicUpdate s addr z (fun o => f o (atomicOperand z v)) = atomicUpdate s addr z (fun o => upd o v) :=
    atomicUpdate_congr fun old _ => hval old v
  have h10 {src : Reg} (hsrc : fetch = true → src ≠ .r10) : .r10 ∉ (if fetch then [src] else []) :=
    mt (r10_mem_target_iff src).1 (not_and.2 hsrc)
  refine ⟨hsel.coded h r10_mem_target_iff, fun s dst src off base v old t hsrc ht hb hv hu => ?completes,
    fun s dst src off base v e hsrc ht hb hv hu => ?faults, fun s dst src off hsrc ht hn => ?base,
    fun s dst src off base hsrc ht hb hn => ?operand⟩
  case completes => exact (h dst src off).exec_ok (h10 hsrc) ht (by rw [atomicSimple_of_some hb hv, hupd, hu]; rfl)
  case faults => exact (h dst src off).exec_error (h10 hsrc) ht (by rw [atomicSimple_of_some hb hv, hupd, hu]; rfl)
  case base => exact (h dst src off).exec_error (h10 hsrc) ht (atomicSimple_of_base_none hn)
  case operand => exact (h dst src off).exec_error (h10 hsrc) ht (atomicSimple_of_operand_none hb hn)

/-- Compare and exchange follows its rule; `hval` is asked of the old values that an access of this size can answer. -/
theorem Selects.compareRule {upd : Word → Word → Word → Word} (hsel : Selects op 0xf1 mk)
    (h : ∀ dst src off, MeansTagged (mk dst src off) .v3 [.r0] (atomicCompare z dst src off))
    (hval : ∀ old k v : Word, old.toNat < 2 ^ (8 * z.bytes) →
      lowBytes z.bytes (if old = atomicOperand z k then atomicOperand z v else old) =
        lowBytes z.bytes (upd old k v)) :
    CompareRule op mk z upd := by
  have hupd (s : State) (addr k v : Word) :
      atomicUpdate s addr z (fun o => if o = atomicOperand z k then atomicOperand z v else o) =
        atomicUpdate s addr z (fun o => upd o k v) :=
    atomicUpdate_congr fun old hlt => hval old k v hlt
  have h10 : Reg.r10 ∉ [Reg.r0] := by decide
  refine ⟨hsel.coded h (by simp), fun s dst src off base v k old t ht hb hv hk hu => ?completes,
    fun s dst src off base v k e ht hb hv hk hu => ?faults, fun s dst src off ht hn => ?base,
    fun s dst src off base ht hb hn => ?operand, fun s dst src off base v ht hb hv hn => ?r0⟩
  case completes => exact (h dst src off).exec_ok h10 (.inr ht) (by rw [atomicCompare_of_some hb hv hk, hupd, hu]; rfl)
  case faults => exact (h dst src off).exec_error h10 (.inr ht) (by rw [atomicCompare_of_some hb hv hk, hupd, hu]; rfl)
  case base => exact (h dst src off).exec_error h10 (.inr ht) (atomicCompare_of_base_none hn)
  case operand => exact (h dst src off).exec_error h10 (.inr ht) (atomicCompare_of_operand_none hb hn)
  case r0 => exact (h dst src off).exec_error h10 (.inr ht) (atomicCompare_of_r0_none hb hv hn)

end Rules

/-! ### The twenty operations (R277 to R296) -/

theorem selects_atomic32 {imm : Imm} {mk : Reg → Reg → Off → Instr} (h : pickAtomic32 imm = some mk) :
    Selects 0xc3 imm mk := ⟨pickAtomic32, rfl, h⟩

theorem selects_atomic64 {imm : Imm} {mk : Reg → Reg → Off → Instr} (h : pickAtomic64 imm = some mk) :
    Selects 0xdb imm mk := ⟨pickAtomic64, rfl, h⟩

/-- Settles O49: at 32 bits the low half of what is computed is the operation on the low halves. -/
theorem atomics32 : Obligations.Atomics32 :=
  ⟨(selects_atomic32 rfl).atomicRule atomics_add.plain32 (storesAs_onLow low32_add),
    (selects_atomic32 rfl).atomicRule atomics_add.fetch32 (storesAs_onLow low32_add),
    (selects_atomic32 rfl).atomicRule atomics_or.plain32 (storesAs_onLow low32_or),
    (selects_atomic32 rfl).atomicRule atomics_or.fetch32 (storesAs_onLow low32_or),
    (selects_atomic32 rfl).atomicRule atomics_and.plain32 (storesAs_onLow low32_and),
    (selects_atomic32 rfl).atomicRule atomics_and.fetch32 (storesAs_onLow low32_and),
    (selects_atomic32 rfl).atomicRule atomics_xor.plain32 (storesAs_onLow low32_xor),
    (selects_atomic32 rfl).atomicRule atomics_xor.fetch32 (storesAs_onLow low32_xor),
    (selects_atomic32 rfl).atomicRule means_atomicXchg32 (storesAs_onLow fun _ _ => rfl),
    (selects_atomic32 rfl).compareRule means_atomicCmpxchg32 fun _ _ _ => lowBytes_compare_w⟩

/-- Settles O50: at 64 bits the operand is the whole register (`atomicOperand_dw`). -/
theorem atomics64 : Obligations.Atomics64 :=
  ⟨(selects_atomic64 rfl).atomicRule atomics_add.plain64 (storesAs_dw _),
    (selects_atomic64 rfl).atomicRule atomics_add.fetch64 (storesAs_dw _),
    (selects_atomic64 rfl).atomicRule atomics_or.plain64 (storesAs_dw _),
    (selects_atomic64 rfl).atomicRule atomics_or.fetch64 (storesAs_dw _),
    (selects_atomic64 rfl).atomicRule atomics_and.plain64 (storesAs_dw _),
    (selects_atomic64 rfl).atomicRule atomics_and.fetch64 (storesAs_dw _),
    (selects_atomic64 rfl).atomicRule atomics_xor.plain64 (storesAs_dw _),
    (selects_atomic64 rfl).atomicRule atomics_xor.fetch64 (storesAs_dw _),
    (selects_atomic64 rfl).atomicRule means_atomicXchg64 (storesAs_dw _),
    (selects_atomic64 rfl).compareRule means_atomicCmpxchg64 fun _ _ _ _ => by simp only [atomicOperand_dw]⟩

/-! ### The forms that do not exist (R276) -/

/-- What decodes under an atomic opcode has the constant of one of the ten operations (R272). -/
theorem immField_mem_of_decode {p : Params} {w : Word} {second : Option Word} {i : Instr}
    (hop : opcodeField w = 0xc3 ∨ opcodeField w = 0xdb) (h : decode p w second = .ok i) :
    immField w ∈ ([0x00, 0x01, 0x40, 0x41, 0x50, 0x51, 0xa0, 0xa1, 0xe1, 0xf1] : List Imm) := by
  obtain ⟨-, -, h32, h64⟩ := selectedByImm p w second i h
  simp only [List.mem_cons, List.not_mem_nil, or_false]
  obtain hop | hop := hop
  · exact (h32 hop).imp And.left <| .imp And.left <| .imp And.left <| .imp And.left <| .imp And.left <|
      .imp And.left <| .imp And.left <| .imp And.left <| .imp And.left And.left
  · exact (h64 hop).imp And.left <| .imp And.left <| .imp And.left <| .imp And.left <| .imp And.left <|
      .imp And.left <| .imp And.left <| .imp And.left <| .imp And.left And.left

/-- Settles O19: the fourteen opcodes are reserved, and a selector that decodes is one of the ten. -/
theorem noOtherAtomics : Obligations.NoOtherAtomics := by
  intro p w second
  refine ⟨fun hop => ⟨.reservedOpcode, (Sys2Proof.reservedOpcodes p w second).2 ?reserved⟩,
    fun hop him => exists_decode_error fun i h => him (immField_mem_of_decode hop h)⟩
  case reserved =>
    have hsub : [0xcb, 0xd3, 0xc2, 0xca, 0xd2, 0xda, 0xc0, 0xc8, 0xd0, 0xd8, 0xc1, 0xc9, 0xd1, 0xd9] ⊆
        reservedOpcodes := by decide
    exact hsub hop

end Sys2Proof.Machine

/-! The wide instruction (`45_imm64.md`). The two layouts differ in the fields they ask to be zero and in the value they
put together; the decoder's `decode_lddw_iff` says both, and the meaning is one write of a register. -/

namespace Sys2Proof.Machine

/-! ### The halves of the immediate -/

/-- Two halves side by side, as a number (R300). -/
theorem append_eq_ofNat (hi lo : BitVec 32) : hi ++ lo = BitVec.ofNat 64 (hi.toNat * 2 ^ 32 + lo.toNat) := by
  have hcat : (hi ++ lo).toNat = hi.toNat * 2 ^ 32 + lo.toNat := by
    rw [BitVec.toNat_append, ← Nat.shiftLeft_add_eq_or_of_lt lo.isLt, Nat.shiftLeft_eq]
  rw [← hcat, BitVec.ofNat_toNat, BitVec.setWidth_eq]

/-- The low half of a slot is zero exactly if it is zero as a number (R300). -/
theorem extractLsb'_eq_zero_iff {v : Word} : v.extractLsb' 0 32 = 0#32 ↔ v.toNat % 2 ^ 32 = 0 := by
  rw [← low32_eq_extractLsb', eq_zero_iff_toNat, toNat_low32]

/-! ### What decodes and what is refused -/

/-- A register field names one register (R22). -/
theorem field_injective {d d' : Reg} (h : d.field = d'.field) : d = d' :=
  Except.ok.inj (by rw [← regOfField_field d, h, regOfField_field])

section Coding

variable {op : BitVec 8} {p q : Params} {w : Word} {second : Option Word} {mk : Reg → Word → Instr}
  {i j : Instr}

/-- What format `LDDW` refuses under either layout, whatever the immediate is (R86, R91). -/
theorem refuses_lddw (hf : formOf op = some (.lddw mk)) :
    Refuses op (fun w => srcField w ≠ 0 ∨ offField w ≠ 0 ∨ 10 ≤ (dstField w).toNat) := by
  rintro p w second rfl hbad
  refine exists_decode_error fun i h => ?_
  obtain ⟨d, -, hd, hn, hs, ho, -⟩ := (decode_lddw_iff hf).1 h
  have hlt := field_lt_ten hn
  obtain hb | hb | hb := hbad
  · exact hb hs
  · exact hb ho
  · rw [hd] at hb; omega

/-- What decodes under the source's layout (R301). -/
theorem decode_lddw_sourceLiteral (hf : formOf (opcodeField w) = some (.lddw mk)) (hp : p.lddwLayout = .sourceLiteral)
    (h : decode p w second = .ok i) :
    ∃ d v, dstField w = d.field ∧ second = some v ∧ immField w = 0 ∧ i = mk d v := by
  obtain ⟨d, v, hd, -, -, -, hv, ⟨-, hm, -, hi⟩ | ⟨hl, -⟩⟩ := (decode_lddw_iff hf).1 h
  · exact ⟨d, v, hd, hv, hm, hi⟩
  · rw [hp] at hl; cases hl

/-- What decodes in split halves (R300). -/
theorem decode_lddw_splitHalves (hf : formOf (opcodeField w) = some (.lddw mk)) (hp : p.lddwLayout = .splitHalves)
    (h : decode p w second = .ok i) :
    ∃ d v, dstField w = d.field ∧ second = some v ∧ v.extractLsb' 0 32 = 0#32 ∧
      i = mk d (immField v ++ immField w) := by
  obtain ⟨d, v, hd, -, -, -, hv, ⟨hl, -⟩ | ⟨-, hz, -, hi⟩⟩ := (decode_lddw_iff hf).1 h
  · rw [hp] at hl; cases hl
  · exact ⟨d, v, hd, hv, hz, hi⟩

/-- What is refused of the immediate: a first `imm` that is not zero under the source's layout, no second slot, and in
split halves a second slot whose low half is not zero (R91, R300). -/
theorem decode_lddw_error (hf : formOf (opcodeField w) = some (.lddw mk))
    (hbad : p.lddwLayout = .sourceLiteral ∧ immField w ≠ 0 ∨ second = none ∨
      p.lddwLayout = .splitHalves ∧ ∃ v, second = some v ∧ v.toNat % 2 ^ 32 ≠ 0) :
    ∃ r, decode p w second = .error r := by
  refine exists_decode_error fun i h => ?_
  obtain ⟨hp, hne⟩ | hnone | ⟨hp, v, hv, hlow⟩ := hbad
  · obtain ⟨-, -, -, -, hm, -⟩ := decode_lddw_sourceLiteral hf hp h
    exact hne hm
  · obtain ⟨-, v, -, -, -, -, hsome, -⟩ := (decode_lddw_iff hf).1 h
    rw [hnone] at hsome; cases hsome
  · obtain ⟨-, v', -, hsome, hz, -⟩ := decode_lddw_splitHalves hf hp h
    obtain rfl : v = v' := Option.some.inj (hv.symm.trans hsome)
    exact hlow (extractLsb'_eq_zero_iff.1 hz)

/-- Slots that both layouts accept are the same instruction: the first `imm` and the low half of the second slot are
both zero, and the value is the second slot either way (R300). -/
theorem decode_lddw_layouts_agree (hf : formOf (opcodeField w) = some (.lddw mk)) (hp : p.lddwLayout = .sourceLiteral)
    (hq : q.lddwLayout = .splitHalves) (hi : decode p w second = .ok i) (hj : decode q w second = .ok j) : i = j := by
  obtain ⟨d, v, hd, hv, hm, rfl⟩ := decode_lddw_sourceLiteral hf hp hi
  obtain ⟨d', v', hd', hv', hz, rfl⟩ := decode_lddw_splitHalves hf hq hj
  obtain rfl : d = d' := field_injective (hd.symm.trans hd')
  obtain rfl : v = v' := Option.some.inj (hv.symm.trans hv')
  rw [hm]
  exact congrArg (mk d) (packSlot_zero_immField hz).symm

end Coding

/-! ### What it does (R301) -/

theorem means_lddw (dst : Reg) (v : Word) : MeansAlways (.lddw dst v) dst (loadImm64 dst v) :=
  ⟨⟨rfl, rfl, fun _ => rfl⟩, rfl⟩

theorem formOf_lddw {w : Word} (hop : opcodeField w = 0x18) : formOf (opcodeField w) = some (.lddw .lddw) := by
  rw [hop]; rfl

end Sys2Proof.Machine

namespace Sys2Proof

open Machine (refuses_lddw decode_lddw_error decode_lddw_layouts_agree formOf_lddw means_lddw append_eq_ofNat)

/-- Settles O51: each layout from its own case of `Form.Makes`, and the meaning from the body, which never faults. -/
theorem loadImm64 : Obligations.LoadImm64 := by
  refine ⟨fun p dst v hd hp => ?literal, fun p dst lo hi hd hp => ?split, refuses_lddw rfl,
    fun p w second hop => decode_lddw_error (formOf_lddw hop), fun s dst v hd => ?effect,
    fun p q w v i j hop => decode_lddw_layouts_agree (formOf_lddw hop)⟩
  case literal => exact decode_packSlot rfl (.lddwLiteral _ _ _ hp hd) ((means_lddw dst v).wellFormed hd p)
  case split =>
    have h := decode_packSlot (op := 0x18) rfl (.lddwSplit .lddw dst lo _ hp hd (extractLsb'_packSlot_zero hi))
      ((means_lddw dst _).wellFormed hd p)
    rwa [immField_packSlot, append_eq_ofNat] at h
  case effect => exact (means_lddw dst v).exec_eq hd

end Sys2Proof

/-! The legacy packet loads (`46_legacy_packet.md`). Once R6 and the offset are known the six instructions have one
end, `packetLoad`, which is settled once: no packet, beyond its boundary, inside it. The two formats differ in their
fields and in the registers that they examine before that end. -/

namespace Sys2Proof.Machine

/-! ### The bytes as a number (R311) -/

/-- Digits with the most significant first are those with the least significant first, read from the other end. -/
theorem bigEndian_eq_numLE_reverse (bs : List Byte) : bigEndian bs = numLE bs.reverse := by
  induction bs using List.reverseRecOn with
  | nil => rfl
  | append_singleton bs b ih =>
    have hlast : bigEndian (bs ++ [b]) = 256 * bigEndian bs + b.toNat := List.foldl_append
    rw [hlast, ih, List.reverse_concat, numLE, Nat.add_comm]

/-- Up to eight bytes in network byte order, as a number (R311). -/
theorem joinBE_eq_ofNat {bs : List Byte} (h : bs.length ≤ 8) : joinBE bs = BitVec.ofNat 64 (bigEndian bs) := by
  have hjoin : (joinBE bs).toNat = bigEndian bs := by
    rw [joinBE, joinLE_toNat _ (by simpa using h), bigEndian_eq_numLE_reverse]
  rw [← hjoin, BitVec.ofNat_toNat, BitVec.setWidth_eq]

/-! ### The end that all six share (R306 to R308, R311, R334) -/

section Ends

variable {s : State} {x6 : Word} {o : Int} {n : Nat} {z : Size} {q : Packet}

/-- Without a packet, or with another value than its designator in R6, there is no packet to load from (R306). -/
theorem packetOf_of_ne (h : ∀ q, s.packet = some q → x6 ≠ q.designator) : packetOf s x6 = .error .packetContext := by
  unfold packetOf
  split
  · rfl
  · next q hq => exact if_neg (h q hq)

/-- An offset that is negative, or from which the bytes run past the end (R308). -/
theorem packetBytes_of_beyond (h : o < 0 ∨ (q.data.length : Int) < o + n) : packetBytes q o n = none := if_pos h

theorem packetBytes_of_inside (h0 : 0 ≤ o) (hn : o + n ≤ q.data.length) :
    packetBytes q o n = some ((q.data.drop o.toNat).take n) := if_neg (by omega)

/-- The offset is not looked at where there is no packet (R306). -/
theorem packetLoad_of_ne (h : ∀ q, s.packet = some q → x6 ≠ q.designator) :
    packetLoad z x6 o s = .error .packetContext := by
  rw [packetLoad, packetOf_of_ne h]; rfl

/-- Beyond the boundary the run is aborted, which is no fault (R308, R334). -/
theorem packetLoad_of_beyond (hq : s.packet = some q) (hx : x6 = q.designator)
    (ho : o < 0 ∨ (q.data.length : Int) < o + z.bytes) :
    packetLoad z x6 o s = .ok { s with outcome := .abort } :=
  packetLoad_eq_ok.2 ⟨q, packetOf_eq_ok.2 ⟨hq, hx⟩, .inl ⟨packetBytes_of_beyond ho, rfl⟩⟩

/-- Inside the boundary R0 receives the bytes and R1 to R5 are clobbered (R307, R311). -/
theorem packetLoad_of_inside (hq : s.packet = some q) (hx : x6 = q.designator) (h0 : 0 ≤ o)
    (hn : o + z.bytes ≤ q.data.length) :
    packetLoad z x6 o s =
      .ok (putClobber s (BitVec.ofNat 64 (bigEndian ((q.data.drop o.toNat).take z.bytes)))) := by
  have hlen : ((q.data.drop o.toNat).take z.bytes).length ≤ 8 := (List.length_take_le ..).trans (size_le_eight z)
  refine packetLoad_eq_ok.2 ⟨q, packetOf_eq_ok.2 ⟨hq, hx⟩, .inr ⟨_, packetBytes_of_inside h0 hn, ?_⟩⟩
  rw [joinBE_eq_ofNat hlen]
  rfl

/-- An instruction whose body comes down to `packetLoad` ends as the rules of the legacy loads say. -/
theorem MeansPlain.packetEnds {i : Instr} {body : State → Except Fault State} (h : MeansPlain i body)
    (hb : body s = packetLoad z x6 o s) : PacketEnds s x6 o z.bytes (Machine.exec i s) := by
  refine ⟨fun hne => h.exec_error ?context, fun q hq hx => ⟨fun ho => h.exec_ok ?beyond, fun h0 hn => h.exec_ok ?inside⟩⟩
  case context => rw [hb, packetLoad_of_ne hne]
  case beyond => rw [hb, packetLoad_of_beyond hq hx ho]
  case inside => rw [hb, packetLoad_of_inside hq hx h0 hn]

end Ends

/-! ### The registers, in the order in which they are examined (R310, R323) -/

section Bodies

variable {s : State} {z : Size} {src : Reg} {imm : Imm} {x6 v : Word}

theorem loadAbs_of_some (h6 : s.regs.get .r6 = some x6) : loadAbs z imm s = packetLoad z x6 imm.toInt s := by
  rw [loadAbs, readReg_of_some h6]; rfl

theorem loadAbs_of_none (h6 : s.regs.get .r6 = none) : loadAbs z imm s = .error (.uninitRegister .r6) := by
  rw [loadAbs, readReg_of_none h6]; rfl

theorem loadInd_of_some (h6 : s.regs.get .r6 = some x6) (hv : s.regs.get src = some v) :
    loadInd z src imm s = packetLoad z x6 (v + imm.signExtend 64).toInt s := by
  rw [loadInd, readReg_of_some h6, readReg_of_some hv]; rfl

/-- R6 is examined before the source register. -/
theorem loadInd_of_r6_none (h6 : s.regs.get .r6 = none) : loadInd z src imm s = .error (.uninitRegister .r6) := by
  rw [loadInd, readReg_of_none h6]; rfl

/-- The source register is examined before the packet. -/
theorem loadInd_of_src_none (h6 : s.regs.get .r6 = some x6) (hn : s.regs.get src = none) :
    loadInd z src imm s = .error (.uninitRegister src) := by
  rw [loadInd, readReg_of_some h6, readReg_of_none hn]; rfl

end Bodies

/-! ### What is refused -/

section Coding

variable {op : BitVec 8}

/-- What format `LD_ABS` refuses (R86). -/
theorem refuses_ldAbs {mk : Imm → Instr} (hf : formOf op = some (.ldAbs mk)) :
    Refuses op (fun w => dstField w ≠ 0 ∨ srcField w ≠ 0 ∨ offField w ≠ 0) := by
  rintro p w second rfl hbad
  refine exists_decode_error fun i h => ?_
  obtain ⟨hd, hs, ho, -⟩ := (decode_ldAbs_iff hf).1 h
  simp [hd, hs, ho] at hbad

/-- What format `LD_IND` refuses; its source is read alone and may be R10 (R86, R91). -/
theorem refuses_ldInd {mk : Reg → Imm → Instr} (hf : formOf op = some (.ldInd mk)) :
    Refuses op (fun w => dstField w ≠ 0 ∨ offField w ≠ 0 ∨ 10 < (srcField w).toNat) := by
  rintro p w second rfl hbad
  refine exists_decode_error fun i h => ?_
  obtain ⟨r, hd, hs, ho, -⟩ := (decode_ldInd_iff hf).1 h
  simp [hd, hs, ho, (field_le_ten r).not_gt] at hbad

end Coding

/-! ### An instruction and its body -/

/-- `meansPlain_of_not_mem` for an instruction that writes R0 to R5, as the legacy loads do (R25, R307). -/
theorem meansPlain_of_clobbers {i : Instr} {body : State → Except Fault State}
    (hi : i.written = [.r0, .r1, .r2, .r3, .r4, .r5]) (hv : i.version = none) (hn : i.isExtraNegForm = false)
    (he : ∀ s, exec i s = attempt i s body) : MeansPlain i body :=
  meansPlain_of_not_mem (by rw [hi]; decide) hv hn he

/-- The instructions `mk imm` have the opcode `op` and load `z` bytes of the packet at `imm`. -/
structure FormAbs (op : BitVec 8) (mk : Imm → Instr) (z : Size) : Prop where
  format : formOf op = some (.ldAbs mk)
  means : ∀ imm, MeansPlain (mk imm) (loadAbs z imm)

/-- The instructions `mk src imm` have the opcode `op` and load `z` bytes of the packet at the source register plus
`imm`. -/
structure FormInd (op : BitVec 8) (mk : Reg → Imm → Instr) (z : Size) : Prop where
  format : formOf op = some (.ldInd mk)
  means : ∀ src imm, MeansPlain (mk src imm) (loadInd z src imm)

section Rules

variable {op : BitVec 8} {z : Size}

theorem FormAbs.absRule {mk : Imm → Instr} (h : FormAbs op mk z) : AbsRule op mk z.bytes :=
  ⟨fun p _ imm => decode_packSlot h.format (.ldAbs ..) ((h.means imm).wellFormed p),
    refuses_ldAbs h.format,
    fun _ imm h6 => (h.means imm).exec_error (loadAbs_of_none h6),
    fun _ imm _ h6 => (h.means imm).packetEnds (loadAbs_of_some h6)⟩

theorem FormInd.indRule {mk : Reg → Imm → Instr} (h : FormInd op mk z) : IndRule op mk z.bytes :=
  ⟨fun p _ src imm => decode_packSlot h.format (.ldInd ..) ((h.means src imm).wellFormed p),
    refuses_ldInd h.format,
    fun _ src imm h6 => (h.means src imm).exec_error (loadInd_of_r6_none h6),
    fun _ src imm _ h6 hn => (h.means src imm).exec_error (loadInd_of_src_none h6 hn),
    fun _ src imm _ _ h6 hv => (h.means src imm).packetEnds (loadInd_of_some h6 hv)⟩

end Rules

/-! ### The six packet loads (R312 to R317)

Each row is a computation: the format of the opcode, the tables of R25 and R91, and the arm of `exec`. -/

theorem form_ldabsw : FormAbs 0x20 .ldabsw .w := ⟨rfl, fun _ => meansPlain_of_clobbers rfl rfl rfl fun _ => rfl⟩
theorem form_ldabsh : FormAbs 0x28 .ldabsh .h := ⟨rfl, fun _ => meansPlain_of_clobbers rfl rfl rfl fun _ => rfl⟩
theorem form_ldabsb : FormAbs 0x30 .ldabsb .b := ⟨rfl, fun _ => meansPlain_of_clobbers rfl rfl rfl fun _ => rfl⟩

theorem form_ldindw : FormInd 0x40 .ldindw .w := ⟨rfl, fun _ _ => meansPlain_of_clobbers rfl rfl rfl fun _ => rfl⟩
theorem form_ldindh : FormInd 0x48 .ldindh .h := ⟨rfl, fun _ _ => meansPlain_of_clobbers rfl rfl rfl fun _ => rfl⟩
theorem form_ldindb : FormInd 0x50 .ldindb .b := ⟨rfl, fun _ _ => meansPlain_of_clobbers rfl rfl rfl fun _ => rfl⟩

/-- Settles O52: `FormAbs.absRule` at the three sizes. -/
theorem packetAbsolute : Obligations.PacketAbsolute :=
  ⟨form_ldabsw.absRule, form_ldabsh.absRule, form_ldabsb.absRule⟩

/-- Settles O53: `FormInd.indRule` at the three sizes. -/
theorem packetIndirect : Obligations.PacketIndirect :=
  ⟨form_ldindw.indRule, form_ldindh.indRule, form_ldindb.indRule⟩

end Sys2Proof.Machine

/-! The ends of a run (`60_exceptions.md`, `70_reset_and_hazards.md`): which faults an instruction can raise, and what
else can end a run.

A meaning is a chain of operations, each of which answers or raises a fault. `AnswersOr` says of an operation what holds
of its answer and which faults it can raise. It is proved once for each operation and passes along a chain by one rule,
and so it holds of each shared body. -/

namespace Sys2Proof.Machine

/-! ### An operation answers, or raises a fault of a kind -/

/-- `x` answers a value that meets `P`, or raises a fault that the kind `k` admits (R322). -/
def AnswersOr {α : Type} (k : FaultKind) (P : α → Prop) : Except Fault α → Prop
  | .ok a => P a
  | .error f => k.admits f = true

section Chains

variable {k : FaultKind} {α β : Type} {P : α → Prop} {Q : β → Prop} {x : Except Fault α}

theorem answersOr_ok {a : α} (h : P a) : AnswersOr k P (.ok a) := h

theorem answersOr_error {f : Fault} (h : k.admits f = true) : AnswersOr k P (.error f) := h

/-- An operation all of whose faults are of the kind. -/
theorem answersOr_of_error (h : ∀ f, x = .error f → k.admits f = true) : AnswersOr k (fun _ => True) x := by
  cases x with
  | ok a => exact answersOr_ok trivial
  | error f => exact answersOr_error (h f rfl)

/-- What is known of the answer besides. -/
theorem AnswersOr.of_ok (hx : AnswersOr k (fun _ => True) x) (h : ∀ a, x = .ok a → P a) : AnswersOr k P x := by
  cases x with
  | ok a => exact answersOr_ok (h a rfl)
  | error f => exact hx

/-- Operations in a row: the second runs on what the first answered. -/
theorem AnswersOr.bind {c : α → Except Fault β} (hx : AnswersOr k P x) (hc : ∀ a, P a → AnswersOr k Q (c a)) :
    AnswersOr k Q (x >>= c) := by
  cases x with
  | ok a => exact hc a hx
  | error f => exact hx

/-- The faults of memory come of called functions too (R59, R322). -/
theorem admits_call_of_data {f : Fault} (h : FaultKind.data.admits f = true) : FaultKind.call.admits f = true := by
  cases f with
  | memFault | misaligned | uninitMemory | uninitRegister => rfl
  | _ => cases h

theorem AnswersOr.call_of_data (hx : AnswersOr .data P x) : AnswersOr .call P x := by
  cases x with
  | ok a => exact hx
  | error f => exact admits_call_of_data hx

end Chains

/-! ### Registers, memory, packets and called functions -/

section Operations

variable {k : FaultKind} {s : State} {addr v : Word} {z : Size}

/-- Every instruction may find a register that holds `novalue` (R26, R322). -/
theorem admits_uninitRegister (k : FaultKind) (r : Reg) : k.admits (.uninitRegister r) = true := by
  cases k <;> rfl

theorem answersOr_readReg (r : Reg) : AnswersOr k (fun _ => True) (readReg s r) := by
  cases h : s.regs.get r with
  | none => rw [readReg_of_none h]; exact answersOr_error (admits_uninitRegister k r)
  | some v => rw [readReg_of_some h]; exact answersOr_ok trivial

theorem answersOr_first32 (r : Reg) : AnswersOr k (fun _ => True) (first32 s r) := by
  cases h : s.regs.get r with
  | none => rw [first32_of_none h]; exact answersOr_error (admits_uninitRegister k r)
  | some v => rw [first32_of_some h]; exact answersOr_ok trivial

theorem answersOr_source64 (b : Source) : AnswersOr k (fun _ => True) (source64 s b) := by
  cases b with
  | k imm => exact answersOr_ok trivial
  | x r => exact answersOr_readReg r

theorem answersOr_source32 (b : Source) : AnswersOr k (fun _ => True) (source32 s b) := by
  cases b with
  | k imm => exact answersOr_ok trivial
  | x r => exact answersOr_first32 r

theorem answersOr_readRegs (rs : List Reg) : AnswersOr k (fun _ => True) (readRegs s rs) := by
  induction rs with
  | nil => exact answersOr_ok trivial
  | cons r rs ih => exact (answersOr_readReg r).bind fun _ _ => ih.bind fun _ _ => answersOr_ok trivial

theorem answersOr_checkRegion (d : Access) : AnswersOr .data (fun _ => True) (checkRegion s addr z d) :=
  answersOr_of_error fun f h => by rw [checkRegion_eq_error h]; rfl

theorem answersOr_checkAligned (atomic : Bool) : AnswersOr .data (fun _ => True) (checkAligned s atomic addr z) :=
  answersOr_of_error fun f h => by rw [checkAligned_eq_error h]; rfl

theorem answersOr_loadBytes (r : Region) : AnswersOr .data (fun _ => True) (loadBytes s r addr z) :=
  answersOr_of_error fun f h => by rw [loadBytes_eq_error h]; rfl

/-- A load raises the faults of memory alone, and leaves the outcome (R41, R58). -/
theorem answersOr_memRead : AnswersOr .data (fun a => a.2.outcome = s.outcome) (memRead s addr z) :=
  ((answersOr_checkRegion _).bind fun r _ => (answersOr_checkAligned _).bind fun _ _ =>
    answersOr_loadBytes r).of_ok fun _ h => (onlyMemory_memRead h).outcome

/-- A store raises the faults of memory alone, and leaves the outcome (R42). -/
theorem answersOr_memWrite : AnswersOr .data (fun t => t.outcome = s.outcome) (memWrite s addr z v) :=
  ((answersOr_checkRegion _).bind fun _ _ => (answersOr_checkAligned _).bind fun _ _ =>
    answersOr_ok trivial).of_ok fun _ h => (onlyMemory_memWrite h).outcome

/-- An atomic update raises the faults of memory alone, and leaves the outcome (R275). -/
theorem answersOr_atomicUpdate (f : Word → Word) :
    AnswersOr .data (fun a => a.2.outcome = s.outcome) (atomicUpdate s addr z f) :=
  ((answersOr_checkRegion _).bind fun r _ => (answersOr_checkRegion _).bind fun _ _ =>
    (answersOr_checkAligned _).bind fun _ _ => (answersOr_loadBytes r).bind fun _ _ =>
    answersOr_ok trivial).of_ok fun _ h => (onlyMemory_atomicUpdate h).outcome

theorem answersOr_atomicAccess (dst src : Reg) (off : Off) (f : Word → Word → Word) :
    AnswersOr .data (fun a => a.2.outcome = s.outcome) (atomicAccess z dst src off f s) :=
  (answersOr_readReg dst).bind fun _ _ => (answersOr_readReg src).bind fun _ _ => answersOr_atomicUpdate _

theorem answersOr_packetOf (x6 : Word) : AnswersOr .packet (fun _ => True) (packetOf s x6) := by
  unfold packetOf
  split
  · exact answersOr_error rfl
  · split
    · exact answersOr_ok trivial
    · exact answersOr_error rfl

/-- A called function reads arguments, reads and writes memory, and reports failures of its own (R59, R244). -/
theorem answersOr_runHelper (n : Imm) (body : HelperBody) (vals : List Word) :
    AnswersOr .call (fun _ => True) (runHelper n body vals s) := by
  induction body generalizing vals s with
  | ret e => exact answersOr_ok trivial
  | fail e => exact answersOr_error rfl
  | readArgs rs next ih => exact (answersOr_readRegs _).bind fun _ _ => ih _
  | load a z next ih => exact answersOr_memRead.call_of_data.bind fun _ _ => ih _
  | store a z w next ih => exact answersOr_memWrite.call_of_data.bind fun _ _ => ih _
  | branch c yes no ihYes ihNo =>
    rw [runHelper]
    split
    · exact ihNo vals
    · exact ihYes vals

theorem answersOr_applyHelper (h : Helper) :
    AnswersOr .call (fun a => a.2.outcome = s.outcome) (applyHelper h s) :=
  ((answersOr_readRegs _).bind fun _ _ => answersOr_runHelper _ _ _).of_ok
    fun _ ha => (onlyMemory_applyHelper ha).outcome

end Operations

/-! ### Arithmetic: the operations by the fault they can raise -/

/-- Each operation of arithmetic with the kind of the instructions that perform it (R115, R116). -/
inductive OpKind : AluOp → FaultKind → Prop
  | add : OpKind @opAdd .other
  | sub : OpKind @opSub .other
  | mul : OpKind @opMul .other
  | or : OpKind @opOr .other
  | and : OpKind @opAnd .other
  | xor : OpKind @opXor .other
  | div : OpKind @opDiv .division
  | mod : OpKind @opMod .division
  | lsh : OpKind @opLsh .shift
  | rsh : OpKind @opRsh .shift
  | arsh : OpKind @opArsh .shift

section Arithmetic

variable {w : Nat} {p : Params} {a b : BitVec w}

theorem answersOr_shiftAmount : AnswersOr .shift (fun _ => True) (shiftAmount p b) := by
  unfold shiftAmount
  split_ifs
  · exact answersOr_ok trivial
  · split
    · exact answersOr_error rfl
    · exact answersOr_ok trivial

/-- A zero divisor and an amount not below the width are all that can be wrong with two operands. -/
theorem OpKind.answersOr {op : AluOp} {k : FaultKind} (h : OpKind @op k) : AnswersOr k (fun _ => True) (op p a b) := by
  cases h with
  | add | sub | mul | or | and | xor => exact answersOr_ok trivial
  | div | mod =>
    simp only [opDiv, opMod]
    split_ifs
    · split
      · exact answersOr_error rfl
      · exact answersOr_ok trivial
    · exact answersOr_ok trivial
  | lsh | rsh | arsh => exact answersOr_shiftAmount.bind fun _ _ => answersOr_ok trivial

end Arithmetic

/-! ### The bodies of the instructions -/

/-- How an instruction that raises no fault leaves the outcome: as it was, or ended by `exit` or by an aborting load
(R245, R320, R334). -/
def EndsRun (i : Instr) (s t : State) : Prop :=
  t.outcome = s.outcome ∨ (i = .exit ∧ ∃ v, s.regs.get .r0 = some v ∧ t = { s with outcome := .exit v }) ∨
    (faultKind i = .packet ∧ t = { s with outcome := .abort })

/-- The bodies that an instruction can have, by the kind of its faults; the bodies without a condition only read
registers. -/
inductive KindOf (i : Instr) : (State → Except Fault State) → Prop
  | alu64 (op : AluOp) (dst : Reg) (b : Source) : OpKind @op (faultKind i) → KindOf i (alu64 op dst b)
  | alu32 (op : AluOp) (dst : Reg) (b : Source) : OpKind @op (faultKind i) → KindOf i (alu32 op dst b)
  | mov64 (dst : Reg) (b : Source) : KindOf i (mov64 dst b)
  | mov32 (dst : Reg) (b : Source) : KindOf i (mov32 dst b)
  | neg64 (dst : Reg) (b : Source) : KindOf i (neg64 dst b)
  | neg32 (dst : Reg) (b : Source) : KindOf i (neg32 dst b)
  | byteSwap (e : Endian) (n : Nat) (dst : Reg) : KindOf i (byteSwap e n dst)
  | jumpAlways (off : Off) : KindOf i (jumpAlways off)
  | jump64 (c : Cond) (dst : Reg) (b : Source) (off : Off) : KindOf i (jump64 c dst b off)
  | jump32 (c : Cond) (dst : Reg) (b : Source) (off : Off) : KindOf i (jump32 c dst b off)
  | callHelper (n : Imm) : faultKind i = .call → KindOf i (callHelper n)
  | exitProgram : i = .exit → KindOf i exitProgram
  | loadReg (z : Size) (dst src : Reg) (off : Off) : faultKind i = .data → KindOf i (loadReg z dst src off)
  | storeImm (z : Size) (dst : Reg) (off : Off) (imm : Imm) : faultKind i = .data → KindOf i (storeImm z dst off imm)
  | storeReg (z : Size) (dst src : Reg) (off : Off) : faultKind i = .data → KindOf i (storeReg z dst src off)
  | atomicPlain (z : Size) (f : Word → Word → Word) (dst src : Reg) (off : Off) :
      faultKind i = .data → KindOf i (atomicPlain z f dst src off)
  | atomicFetch (z : Size) (f : Word → Word → Word) (dst src : Reg) (off : Off) :
      faultKind i = .data → KindOf i (atomicFetch z f dst src off)
  | atomicCompare (z : Size) (dst src : Reg) (off : Off) :
      faultKind i = .data → KindOf i (atomicCompare z dst src off)
  | loadImm64 (dst : Reg) (v : Word) : KindOf i (loadImm64 dst v)
  | loadAbs (z : Size) (imm : Imm) : faultKind i = .packet → KindOf i (loadAbs z imm)
  | loadInd (z : Size) (src : Reg) (imm : Imm) : faultKind i = .packet → KindOf i (loadInd z src imm)

/-- The arm of `exec` gives the body, the body its constructor, and `faultKind` agrees by computation. -/
theorem exists_kindOf (i : Instr) : ∃ body, KindOf i body ∧ ∀ s, exec i s = attempt i s body := by
  cases i with
  | _ => exact ⟨_, by constructor <;> constructor, fun _ => rfl⟩

section Bodies

variable {i : Instr} {k : FaultKind} {s t : State}

/-- The end of a body that leaves the outcome. -/
theorem answersOr_kept (h : t.outcome = s.outcome) : AnswersOr k (EndsRun i s) (.ok t) := answersOr_ok (.inl h)

theorem answersOr_branch (taken : Bool) (off : Off) : AnswersOr k (EndsRun i s) (.ok (branch s taken off)) :=
  answersOr_kept (by rw [branch_pc])

theorem answersOr_neg64 (dst : Reg) (b : Source) : AnswersOr k (EndsRun i s) (neg64 dst b s) := by
  unfold neg64
  split
  · exact (answersOr_source64 b).bind fun _ _ => answersOr_kept rfl
  · exact (answersOr_readReg dst).bind fun _ _ => answersOr_kept rfl

theorem answersOr_neg32 (dst : Reg) (b : Source) : AnswersOr k (EndsRun i s) (neg32 dst b s) := by
  unfold neg32
  split
  · exact (answersOr_source32 b).bind fun _ _ => answersOr_kept rfl
  · exact (answersOr_first32 dst).bind fun _ _ => answersOr_kept rfl

theorem answersOr_callHelper (n : Imm) : AnswersOr .call (EndsRun i s) (callHelper n s) := by
  unfold callHelper
  split
  · exact answersOr_error rfl
  · exact (answersOr_applyHelper _).bind fun _ h => answersOr_kept h

/-- `exit` ends the run with R0, which it read (R245). -/
theorem answersOr_exitProgram : AnswersOr k (EndsRun .exit s) (exitProgram s) :=
  ((answersOr_readReg .r0).of_ok fun _ => readReg_eq_ok.1).bind fun v hv =>
    answersOr_ok (.inr (.inl ⟨rfl, v, hv, rfl⟩))

/-- A legacy load aborts beyond the boundary of the packet (R308, R334). -/
theorem answersOr_packetLoad (hk : faultKind i = .packet) (z : Size) (x6 : Word) (o : Int) :
    AnswersOr .packet (EndsRun i s) (packetLoad z x6 o s) := by
  refine (answersOr_packetOf x6).bind fun p _ => ?_
  split
  · exact answersOr_ok (.inr (.inr ⟨hk, rfl⟩))
  · exact answersOr_kept rfl

/-- Each body raises faults of the kind of its instruction alone, and ends the run as `EndsRun` says. -/
theorem KindOf.answersOr {body : State → Except Fault State} (hb : KindOf i body) (s : State) :
    AnswersOr (faultKind i) (EndsRun i s) (body s) := by
  cases hb with
  | alu64 op dst b hop =>
    exact (answersOr_readReg dst).bind fun _ _ => (answersOr_source64 b).bind fun _ _ =>
      hop.answersOr.bind fun _ _ => answersOr_kept rfl
  | alu32 op dst b hop =>
    exact (answersOr_first32 dst).bind fun _ _ => (answersOr_source32 b).bind fun _ _ =>
      hop.answersOr.bind fun _ _ => answersOr_kept rfl
  | mov64 dst b => exact (answersOr_source64 b).bind fun _ _ => answersOr_kept rfl
  | mov32 dst b => exact (answersOr_source32 b).bind fun _ _ => answersOr_kept rfl
  | neg64 dst b => exact answersOr_neg64 dst b
  | neg32 dst b => exact answersOr_neg32 dst b
  | byteSwap e n dst => exact (answersOr_readReg dst).bind fun _ _ => answersOr_kept rfl
  | jumpAlways off => exact answersOr_branch true off
  | jump64 c dst b off =>
    exact (answersOr_readReg dst).bind fun _ _ => (answersOr_source64 b).bind fun _ _ => answersOr_branch _ off
  | jump32 c dst b off =>
    exact (answersOr_first32 dst).bind fun _ _ => (answersOr_source32 b).bind fun _ _ => answersOr_branch _ off
  | callHelper n hk => rw [hk]; exact answersOr_callHelper n
  | exitProgram hi => subst hi; exact answersOr_exitProgram
  | loadReg z dst src off hk =>
    rw [hk]; exact (answersOr_readReg src).bind fun _ _ => answersOr_memRead.bind fun _ h => answersOr_kept h
  | storeImm z dst off imm hk =>
    rw [hk]; exact (answersOr_readReg dst).bind fun _ _ => answersOr_memWrite.bind fun _ h => answersOr_kept h
  | storeReg z dst src off hk =>
    rw [hk]
    exact (answersOr_readReg dst).bind fun _ _ => (answersOr_readReg src).bind fun _ _ =>
      answersOr_memWrite.bind fun _ h => answersOr_kept h
  | atomicPlain z f dst src off hk =>
    rw [hk]; exact (answersOr_atomicAccess dst src off f).bind fun _ h => answersOr_kept h
  | atomicFetch z f dst src off hk =>
    rw [hk]; exact (answersOr_atomicAccess dst src off f).bind fun _ h => answersOr_kept h
  | atomicCompare z dst src off hk =>
    rw [hk]
    exact (answersOr_readReg dst).bind fun _ _ => (answersOr_readReg src).bind fun _ _ =>
      (answersOr_readReg .r0).bind fun _ _ => (answersOr_atomicUpdate _).bind fun _ h => answersOr_kept h
  | loadImm64 dst v => exact answersOr_kept rfl
  | loadAbs z imm hk =>
    rw [hk]; exact (answersOr_readReg .r6).bind fun _ _ => answersOr_packetLoad hk z _ _
  | loadInd z src imm hk =>
    rw [hk]
    exact (answersOr_readReg .r6).bind fun _ _ => (answersOr_readReg src).bind fun _ _ =>
      answersOr_packetLoad hk z _ _

end Bodies

/-! ### The ends of an instruction -/

/-- All the ways in which an instruction can end: it is ill-formed (R91), it raises a fault of its kind (R322), or it
completes. Both faults change the outcome and nothing else (R321). -/
inductive ExecEnds (i : Instr) (s : State) : State → Prop
  | illFormed (r : IllFormed) (w : Word) : ¬ i.WellFormed s.params → ExecEnds i s (raise s (.illegalInstruction r w))
  | fault (f : Fault) : (faultKind i).admits f = true → ExecEnds i s (raise s f)
  | completes (t : State) : EndsRun i s t → ExecEnds i s t

theorem execEnds_of_exec {i : Instr} {s t : State} (h : exec i s = .next t) : ExecEnds i s t := by
  obtain ⟨body, hb, he⟩ := exists_kindOf i
  rw [he] at h
  cases hw : i.illFormed? s.params with
  | some r =>
    rw [attempt_illFormed body hw] at h
    cases h
    exact .illFormed r _ (by simp [Instr.WellFormed, hw])
  | none =>
    have hends := hb.answersOr s
    cases hbody : body s with
    | ok u => rw [attempt_ok hw hbody] at h; cases h; rw [hbody] at hends; exact .completes _ hends
    | error f => rw [attempt_error hw hbody] at h; cases h; rw [hbody] at hends; exact .fault f hends

/-- Settles O28: the ways in which an instruction can end, with the faults taken together. -/
theorem outcomeSources : Obligations.OutcomeSources := by
  intro i s t h
  cases execEnds_of_exec h with
  | illFormed r w _ => exact .inr (.inl ⟨_, rfl⟩)
  | fault f _ => exact .inr (.inl ⟨f, rfl⟩)
  | completes _ ht => exact ht.imp_right .inr

/-- Settles O29: an instruction that completes leaves the outcome or ends the run without a fault, so a fault that was
not there before was raised. -/
theorem faultSources : Obligations.FaultSources := by
  intro i s t f h hf hs
  cases execEnds_of_exec h with
  | illFormed r w hw => cases hf; exact .inl ⟨r, w, rfl, hw⟩
  | fault g hg => cases hf; exact .inr hg
  | completes _ ht =>
    obtain ho | ⟨-, v, -, rfl⟩ | ⟨-, rfl⟩ := ht
    · exact absurd (ho.symm.trans hf) hs
    · cases hf
    · cases hf

/-! ### Steps, and what the host receives -/

/-- Settles O12: a running machine faults in its fetch, or in an instruction, which O28 settles. -/
theorem stepFaultsPrecise : Obligations.StepFaultsPrecise := by
  intro s t f hr h hf
  cases hfetch : fetch s with
  | error g => rw [step_of_fetch_error hr hfetch] at h; cases h; cases hf; rfl
  | ok i =>
    rw [step_of_fetch_ok hr hfetch] at h
    obtain ho | ⟨g, rfl⟩ | ⟨-, v, -, rfl⟩ | ⟨-, rfl⟩ := outcomeSources i s t h
    · rw [ho, hr] at hf; cases hf
    · cases hf; rfl
    · cases hf
    · cases hf

/-- Settles O11: the arms of `step` for an ended run. -/
theorem endedRunStays : Obligations.EndedRunStays := by
  intro s
  refine ⟨?ended, fun f hf => ?faulted⟩
  case ended =>
    rintro (⟨v, ho⟩ | ho)
    · simp only [step, ho]
    · simp only [step, ho]
  case faulted => simp only [step, hf]

/-- Settles O13: the arms of `hostResult`, one for each outcome. -/
theorem hostReceives : Obligations.HostReceives := by
  intro s
  exact ⟨fun ho => by simp only [hostResult, ho], fun v ho => by simp only [hostResult, ho],
    fun ho => by simp only [hostResult, ho], fun f ho => by simp only [hostResult, ho]⟩

end Sys2Proof.Machine
